-- ==== Sys2Proof/Word.lean ====
section
/-! DEFINITION. The plain types of the serial frame synchronizer: its words, its five controller states, its four events
and its outputs. Every value is unsigned (00_scope.md R9); bits are numbered from 0 at the least-significant bit (R8). -/

namespace Sys2Proof

/-- One byte of the stream (00_scope.md R6, BYTE_W = 8). -/
abbrev Byte := BitVec 8

/-- A channel number: 6 bits, 0..63 (R6, CH_W). -/
abbrev Channel := BitVec 6

/-- The msb field of a value: 4 bits (R6, VHI_W). -/
abbrev HighField := BitVec 4

/-- The lsb field of a value: 6 bits (R6, VLO_W). -/
abbrev LowField := BitVec 6

/-- A reading value: 10 bits, 0..1023 (R6, VAL_W). -/
abbrev Value := BitVec 10

/-- An event word EVW: kind in bits 9:8, data in bits 7:0 (30_encoding.md R48). -/
abbrev EventWord := BitVec 10

/-- The controller state `st` (10_state.md R14). -/
inductive Ctrl where
  /-- Waiting for a marker byte. -/
  | hunting
  /-- A marker has been taken; the next byte is the msb data byte. -/
  | gotChannel
  /-- The msb data byte has been taken; the next byte is the lsb data byte. -/
  | gotMsb
  /-- A record is held for the consumer; no byte is read. -/
  | complete
  /-- End-of-stream was seen; nothing happens until RESET. -/
  | eosStop
deriving DecidableEq, Repr

/-- An event, one step of the block (30_encoding.md R47). -/
inductive Event where
  /-- The Byte Source delivers a byte and the block reads it. -/
  | byte (b : Byte)
  /-- The Byte Source is exhausted when the block reads. -/
  | eos
  /-- The consumer takes the pending record. -/
  | take
  /-- The host resets the block. -/
  | reset
deriving DecidableEq, Repr

/-- What an event hands out when it hands out something (10_state.md R13; R13's output "none" is the absence of one). -/
inductive Output where
  /-- `record(ch, val)`, from EMIT only. -/
  | record (ch : Channel) (val : Value)
  /-- `eos`, from EOS only. -/
  | eos
deriving DecidableEq, Repr

end Sys2Proof
end

