-- ==== Sys2Proof/Config.lean ====
section
/-! DEFINITION. The constants of 00_scope.md R6, each in one place so that a correction of one changes one line
(93_implementation_defined.md I5). The spec fixes every one; no parameter is left to an implementation (R7), and the
model has no free value: no operation computes a value the spec leaves open. -/

namespace Sys2Proof.Config

/-- N_CH: the number of channels. -/
def channels : Nat := 64

/-- MARKER_MASK: the marker test, bit 7. -/
def markerMask : Byte := 0x80#8

/-- CH_MASK, applied after a right shift by 1. -/
def channelMask : Byte := 0x3F#8

/-- MSB_MASK, applied before a right shift by 1. -/
def msbMask : Byte := 0x1E#8

/-- LSB_MASK, applied after a right shift by 1. -/
def lsbMask : Byte := 0x3F#8

/-- The right shift that drops bit 0 of a byte (R45, R46). -/
def fieldShift : Nat := 1

/-- VAL_SHIFT: the left shift of the msb field into the value. -/
def valueShift : Nat := 6

/-- FRAME_LEN: bytes in a frame, one marker and two data bytes. -/
def frameLength : Nat := 3

/-- DATA_BYTES: data bytes read after a marker. -/
def dataBytes : Nat := 2

end Sys2Proof.Config
end

