-- ==== Sys2Proof/Syntax.lean ====
section
/-! DEFINITION. The operations of spec/opcode_table.json, one constructor per row (30_encoding.md R49). An operation is
what an event does in the controller state that meets it; its operand is the byte the event delivers, whole, so that
the bits an operation ignores stay in the syntax. -/

namespace Sys2Proof

/-- The seven operations of the opcode map. -/
inductive Instr where
  /-- HUNT_SKIP (40_synchronizer.md R62): discard a byte with bit 7 = 0 in HUNTING. -/
  | huntSkip (b : Byte)
  /-- HUNT_MARK (R63): take a marker byte in HUNTING and latch its channel. -/
  | huntMark (b : Byte)
  /-- TAKE_MSB (41_frame_assembly.md R68): read the first data byte in GOT_CHANNEL. -/
  | takeMsb (b : Byte)
  /-- TAKE_LSB (R69): read the second data byte in GOT_MSB and form the record. -/
  | takeLsb (b : Byte)
  /-- EMIT (R70): hand the record to the consumer. -/
  | emit
  /-- EOS (60_exceptions.md R77): end-of-stream in a reading state. -/
  | eos
  /-- RESET (70_reset_and_hazards.md R88): in any state. -/
  | reset
deriving DecidableEq, Repr

end Sys2Proof
end

