-- ==== Sys2Proof/WellFormed.lean ====
section
/-! DEFINITION. Which terms of Instr are rows of the opcode map: the condition R49 puts on the operand. HUNT_SKIP and
HUNT_MARK are told apart by bit 7 of their byte alone; the other rows admit every operand (R51). -/

namespace Sys2Proof

/-- The operand condition of 30_encoding.md R49 ("condition on b"). -/
def Instr.wellFormed : Instr → Bool
  | .huntSkip b => !b.getLsbD 7
  | .huntMark b => b.getLsbD 7
  | .takeMsb _ => true
  | .takeLsb _ => true
  | .emit => true
  | .eos => true
  | .reset => true

end Sys2Proof
end

