-- ==== Sys2Proof/Decode.lean ====
section
/-! DEFINITION. Event words (30_encoding.md R48, R52), the opcode map (R49, R50), the decoder made of the two, the
encoder, and the rows of spec/opcode_table.json. Decoding is total and rejects by name. The controller state takes part
in it: the same BYTE word is HUNT_SKIP, TAKE_MSB or TAKE_LSB by the state that reads it (R43: "A byte has no role of its
own"). -/

namespace Sys2Proof

/-- Why a word selects no operation. -/
inductive Reject where
  /-- The word encodes no event: a non-BYTE kind with data bits set (R52). -/
  | notAnEvent (w : EventWord)
  /-- The event is not enabled in this controller state (R50). -/
  | notEnabled (st : Ctrl)
deriving DecidableEq, Repr

/-- The marker test: bit 7, by MARKER_MASK (R6, R45). -/
def isMarker (b : Byte) : Bool := b &&& Config.markerMask != 0#8

/-- R48: the word of an event. -/
def Event.toWord : Event → EventWord
  | .byte b => 0b00#2 ++ b
  | .eos => 0b01#2 ++ 0x00#8
  | .take => 0b10#2 ++ 0x00#8
  | .reset => 0b11#2 ++ 0x00#8

/-- EVW[9:8]. -/
def kindOf (w : EventWord) : BitVec 2 := w.extractLsb' 8 2

/-- EVW[7:0]. -/
def dataOf (w : EventWord) : Byte := w.extractLsb' 0 8

/-- R48, R52: the event a word encodes; a non-BYTE word with data bits set encodes none. -/
def Event.ofWord (w : EventWord) : Except Reject Event :=
  if kindOf w = 0b00#2 then .ok (.byte (dataOf w))
  else if dataOf w ≠ 0x00#8 then .error (.notAnEvent w)
  else if kindOf w = 0b01#2 then .ok .eos
  else if kindOf w = 0b10#2 then .ok .take
  else .ok .reset

/-- R49, the opcode map; `none` where R50 says the pair is not enabled. -/
def select : Ctrl → Event → Option Instr
  | .hunting, .byte b => some (if isMarker b then .huntMark b else .huntSkip b)
  | .gotChannel, .byte b => some (.takeMsb b)
  | .gotMsb, .byte b => some (.takeLsb b)
  | .complete, .byte _ => none
  | .eosStop, .byte _ => none
  | .hunting, .eos => some .eos
  | .gotChannel, .eos => some .eos
  | .gotMsb, .eos => some .eos
  | .complete, .eos => none
  | .eosStop, .eos => none
  | .hunting, .take => none
  | .gotChannel, .take => none
  | .gotMsb, .take => none
  | .complete, .take => some .emit
  | .eosStop, .take => none
  | .hunting, .reset => some .reset
  | .gotChannel, .reset => some .reset
  | .gotMsb, .reset => some .reset
  | .complete, .reset => some .reset
  | .eosStop, .reset => some .reset

/-- The operation a controller state performs on an event word, or the reason there is none. -/
def decode (st : Ctrl) (w : EventWord) : Except Reject Instr :=
  match Event.ofWord w with
  | .error r => .error r
  | .ok e =>
    match select st e with
    | none => .error (.notEnabled st)
    | some i => .ok i

/-- The event that causes an operation (R49, column "event"). -/
def Instr.event : Instr → Event
  | .huntSkip b => .byte b
  | .huntMark b => .byte b
  | .takeMsb b => .byte b
  | .takeLsb b => .byte b
  | .emit => .take
  | .eos => .eos
  | .reset => .reset

/-- R49, column "st": the controller states in which an operation is performed. -/
def Instr.standsIn : Instr → Ctrl → Bool
  | .huntSkip _, st => st == .hunting
  | .huntMark _, st => st == .hunting
  | .takeMsb _, st => st == .gotChannel
  | .takeLsb _, st => st == .gotMsb
  | .emit, st => st == .complete
  | .eos, st => st == .hunting || st == .gotChannel || st == .gotMsb
  | .reset, _ => true

/-- R49, column "next st". -/
def Instr.nextCtrl : Instr → Ctrl
  | .huntSkip _ => .hunting
  | .huntMark _ => .gotChannel
  | .takeMsb _ => .gotMsb
  | .takeLsb _ => .complete
  | .emit => .hunting
  | .eos => .eosStop
  | .reset => .hunting

/-- The word of an operation: the "Encoding" line of each operation's rule (R62, R63, R68 to R70, R77, R88). -/
def encode : Instr → EventWord
  | .huntSkip b => 0b00#2 ++ b
  | .huntMark b => 0b00#2 ++ b
  | .takeMsb b => 0b00#2 ++ b
  | .takeLsb b => 0b00#2 ++ b
  | .emit => 0b1000000000#10
  | .eos => 0b0100000000#10
  | .reset => 0b1100000000#10

/-- One row of spec/opcode_table.json. -/
structure OpcodeRow where
  mnemonic : String
  states   : List Ctrl
  matchTo  : EventWord
  mask     : EventWord
deriving DecidableEq, Repr

/-- The rows of spec/opcode_table.json, in its order. -/
def opcodeRows : List OpcodeRow :=
  [ ⟨"HUNT_SKIP", [.hunting], 0x000#10, 0x380#10⟩,
    ⟨"HUNT_MARK", [.hunting], 0x080#10, 0x380#10⟩,
    ⟨"TAKE_MSB", [.gotChannel], 0x000#10, 0x300#10⟩,
    ⟨"TAKE_LSB", [.gotMsb], 0x000#10, 0x300#10⟩,
    ⟨"EMIT", [.complete], 0x200#10, 0x3FF#10⟩,
    ⟨"EOS", [.hunting, .gotChannel, .gotMsb], 0x100#10, 0x3FF#10⟩,
    ⟨"RESET", [.hunting, .gotChannel, .gotMsb, .complete, .eosStop], 0x300#10, 0x3FF#10⟩ ]

/-- Does a row select this word in this controller state? -/
def OpcodeRow.selects (r : OpcodeRow) (st : Ctrl) (w : EventWord) : Bool :=
  r.states.contains st && (w &&& r.mask) == r.matchTo

/-- The table's name of an operation. -/
def Instr.mnemonic : Instr → String
  | .huntSkip _ => "HUNT_SKIP"
  | .huntMark _ => "HUNT_MARK"
  | .takeMsb _ => "TAKE_MSB"
  | .takeLsb _ => "TAKE_LSB"
  | .emit => "EMIT"
  | .eos => "EOS"
  | .reset => "RESET"

/-- The controller state in which a bare event word is read when no state is given: the launch state, HUNTING, where the
event is enabled there, else the one state that enables it. DESIGN CHOICE, log entry 9: the table's word alone does not
tell HUNT_SKIP from TAKE_MSB and TAKE_LSB. -/
def tableCtrl : Event → Ctrl
  | .byte _ => .hunting
  | .eos => .hunting
  | .take => .complete
  | .reset => .hunting

/-- A table word as an event word: the low `nbits` bits of `w`, if they fit an event word's ten bits. -/
def wordOfBits (nbits w : Nat) : Option EventWord :=
  if w % 2 ^ nbits < 1024 then some (BitVec.ofNat 10 (w % 2 ^ nbits)) else none

/-- The operation the decoder reads from a table word (host interface), in the state `tableCtrl` names. -/
def decodeTableWord (nbits w : Nat) : Option Instr :=
  match wordOfBits nbits w with
  | none => none
  | some ew =>
    match Event.ofWord ew with
    | .error _ => none
    | .ok e => select (tableCtrl e) e

end Sys2Proof
end

