-- ==== Sys2Proof/Machine/State.lean ====
section
/-! DEFINITION. The state of the block (10_state.md R13 to R18) and, beside it, the environment's side of a run (R26,
20_memory.md R38), the reasons a step stops, and the state after reset (R25). Plain data throughout. -/

namespace Sys2Proof.Machine

open Sys2Proof

/-- The datapath registers that can hold no value (10_state.md R15 to R18), named for the fault that reads one. -/
inductive Reg where
  | chan
  | vhi
  | recCh
  | recVal
deriving DecidableEq, Repr

/-- Why the machine stops with a fault. -/
inductive Fault where
  /-- A register that holds ⊥ was read. Raised by TAKE_LSB (`chan`, `vhi`) and EMIT (`rec_ch`, `rec_val`), as R18
  requires: "A model that reads a ⊥ register must fault rather than return a number". Safe: no state that RESET and the
  enabled events reach raises it (R19), and hardware would go on. -/
  | noValue (r : Reg)
deriving DecidableEq, Repr

/-- Why an event has no step. -/
inductive Refusal where
  /-- An operation that has no meaning yet: raised by no arm of this model. Safe. -/
  | notModelled (mnemonic : String)
  /-- The event, or the operation's precondition, is not enabled in this controller state (R49, R50). Raised by step, by
  a clock-edge event and by every meaning whose precondition fails. R54 allows "a refusal the environment cannot provoke". Safe:
  the hardware has no such event. -/
  | notEnabled (st : Ctrl)
  /-- The pending word encodes no event (R52: "a log reader must refuse them"). Raised by step. Safe: such a word
  "never reaches the block". -/
  | notAnEvent (w : EventWord)
deriving DecidableEq, Repr

/-- The machine's state. `none` in a register is the spec's ⊥ (R18), a value of its own, not a missing one. -/
structure State where
  /-- `st`, the controller state (R14). -/
  st      : Ctrl
  /-- `chan`, the channel of the frame being assembled (R15). -/
  chan    : Option Channel
  /-- `vhi`, value bits 9..6 of the frame being assembled (R16). -/
  vhi     : Option HighField
  /-- `rec_ch`, the channel of the completed record (R17). -/
  recCh   : Option Channel
  /-- `rec_val`, the value of the completed record (R17). -/
  recVal  : Option Value
  /-- The environment's choices still to come, as event words, next first (R26, R38; the model's own field, log entry 1). -/
  pending : List EventWord
  /-- What the block has handed out, oldest first (R13 outputs; the model's own field, log entry 2). -/
  sent    : List Output
deriving DecidableEq, Repr

/-- R25, R90: the reset state, the launch state of every run. Nothing is pending and nothing has been handed out
(the model's own fields, log entries 1 and 2). -/
def State.reset : State :=
  { st := .hunting, chan := none, vhi := none, recCh := none, recVal := none, pending := [], sent := [] }

end Sys2Proof.Machine
end

