-- ==== Sys2Proof/Machine/Flags.lean ====
section
/-! DEFINITION. The status flags and the status code, functions of `st` alone (10_state.md R14, R22, R23). The block
stores no flag register and has no arithmetic condition code. -/

namespace Sys2Proof

/-- HUNTING, GOT_CHANNEL and GOT_MSB are the reading states (R14). -/
def Ctrl.reading : Ctrl → Bool
  | .hunting => true
  | .gotChannel => true
  | .gotMsb => true
  | .complete => false
  | .eosStop => false

/-- R14, R23: the encoding of `st` on `st_out[2:0]`. -/
def Ctrl.code : Ctrl → BitVec 3
  | .hunting => 0#3
  | .gotChannel => 1#3
  | .gotMsb => 2#3
  | .complete => 3#3
  | .eosStop => 4#3

/-- The controller state a reader of `st_out` sees; 5, 6 and 7 "never occur" (R23) and are refused
(93_implementation_defined.md I3). -/
def Ctrl.ofCode (c : BitVec 3) : Option Ctrl :=
  if c = 0#3 then some .hunting
  else if c = 1#3 then some .gotChannel
  else if c = 2#3 then some .gotMsb
  else if c = 3#3 then some .complete
  else if c = 4#3 then some .eosStop
  else none

namespace Machine

/-- R22: the block will accept a byte or EOS. -/
def State.inReady (s : State) : Bool := s.st.reading

/-- R22: a record is offered on the output port. -/
def State.outValid (s : State) : Bool := s.st == .complete

/-- R22: end-of-stream has been seen and not yet cleared by RESET. -/
def State.eosFlag (s : State) : Bool := s.st == .eosStop

/-- R23: the status port. -/
def State.stOut (s : State) : BitVec 3 := s.st.code

end Machine

end Sys2Proof
end

