-- ==== Sys2Proof/Machine/Operands.lean ====
section
/-! DEFINITION. The fields of a byte and the assembly of a value (30_encoding.md R43, R45, R46), written with the spec's
own masks and shifts. The msb field is bits 4..1 (90_conflicts.md C1). -/

namespace Sys2Proof.Machine

/-- R45: `chan = (b >> 1) & 0x3F`. -/
def channelOf (b : Byte) : Channel := ((b >>> Config.fieldShift) &&& Config.channelMask).setWidth 6

/-- R46: `vhi = (m & 0x1E) >> 1`. -/
def highFieldOf (m : Byte) : HighField := ((m &&& Config.msbMask) >>> Config.fieldShift).setWidth 4

/-- R46: `vlo = (l >> 1) & 0x3F`. -/
def lowFieldOf (l : Byte) : LowField := ((l >>> Config.fieldShift) &&& Config.lsbMask).setWidth 6

/-- R46: `value = (vhi << 6) | vlo`. -/
def valueOf (hi : HighField) (lo : LowField) : Value :=
  (hi.setWidth 10 <<< Config.valueShift) ||| lo.setWidth 10

end Sys2Proof.Machine
end

