-- ==== Sys2Proof/Machine/Ops.lean ====
section
/-! DEFINITION. The shared operations over the state: register writes, the one register read, the precondition check,
handing out an output, taking the end-of-stream exception and the reset that leaves it, fetching the environment's next
event word, and the host's seat for a bare table word. Every write of one event takes effect together, from the values
the event found (00_scope.md R10). -/

namespace Sys2Proof.Machine

/-- `st <- c` (R10). -/
def State.goTo (s : State) (c : Ctrl) : State := { s with st := c }

/-- `chan <- v`, `none` for ⊥. -/
def State.putChan (s : State) (v : Option Channel) : State := { s with chan := v }

/-- `vhi <- v`, `none` for ⊥. -/
def State.putVhi (s : State) (v : Option HighField) : State := { s with vhi := v }

/-- `rec_ch <- c` and `rec_val <- v`, `none` for ⊥. -/
def State.putRec (s : State) (c : Option Channel) (v : Option Value) : State := { s with recCh := c, recVal := v }

/-- `Emit(ch, val)` and `raise EndOfStream` (R10): hand one output to the environment, after all earlier ones (R35, R36). -/
def State.send (s : State) (o : Output) : State := { s with sent := s.sent ++ [o] }

/-- The environment lines up more events (20_memory.md R38). -/
def State.offer (s : State) (ws : List EventWord) : State := { s with pending := s.pending ++ ws }

/-- R18: reading a register that holds ⊥ faults; else the reader goes on with the value. -/
def readReg {n : Nat} (r : Reg) (v : Option (BitVec n)) (k : BitVec n → Host.Outcome State Fault Refusal) :
    Host.Outcome State Fault Refusal :=
  match v with
  | none => .fault (.noValue r)
  | some x => k x

/-- R50, R54: outside its precondition an operation has no step. -/
def whenEnabled (pre : Bool) (s : State) (o : Host.Outcome State Fault Refusal) : Host.Outcome State Fault Refusal :=
  if pre then o else .refused (.notEnabled s.st)

/-- 60_exceptions.md R77, R82: entry into EOS_STOP, the block's one exception. It reports end-of-stream, discards the
partial frame and saves nothing; `rec_ch` and `rec_val` are not written. -/
def raiseEndOfStream (s : State) : State := (((s.send .eos).putChan none).putVhi none).goTo .eosStop

/-- 70_reset_and_hazards.md R88: every register to its reset value; the way out of EOS_STOP (R83). -/
def resetRegisters (s : State) : State := (((s.putChan none).putVhi none).putRec none none).goTo .hunting

/-- The environment's next event word, and the state with it taken off the environment's list; `none` when the
environment offers nothing. -/
def fetch (s : State) : Option (EventWord × State) :=
  match s.pending with
  | [] => none
  | w :: rest => some (w, { s with pending := rest })

/-- A wait: the environment offers nothing and every register is kept (R64, R71, R87). DESIGN CHOICE, log entry 3: shown as a
next state equal to this one. -/
def idle (s : State) : Host.Outcome State Fault Refusal := .next s

/-- The refusal that reports why a word selects no operation. -/
def refuse (r : Reject) : Host.Outcome State Fault Refusal :=
  match r with
  | .notAnEvent w => .refused (.notAnEvent w)
  | .notEnabled st => .refused (.notEnabled st)

/-- A word that encodes no event (R52), standing in for a number that is no event word. -/
def refusedWord : EventWord := 0x1FF#10

/-- The host's seat for an operation: the state itself where the operation stands in its controller state, else the
registers a run of `RESET` and `FRAME 0, 0` leaves just before that operation. DESIGN CHOICE, log entry 10: used by
`withFetchWord` only, no event does this. -/
def seatFor (i : Instr) (s : State) : State :=
  if i.standsIn s.st then s
  else
    match i with
    | .huntSkip _ => resetRegisters s
    | .huntMark _ => resetRegisters s
    | .takeMsb _ => ((resetRegisters s).putChan (some 0#6)).goTo .gotChannel
    | .takeLsb _ => (((resetRegisters s).putChan (some 0#6)).putVhi (some 0#4)).goTo .gotMsb
    | .emit => ((resetRegisters s).putRec (some 0#6) (some 0#10)).goTo .complete
    | .eos => resetRegisters s
    | .reset => s

end Sys2Proof.Machine
end

