-- ==== Sys2Proof/Machine/Assemble.lean ====
section
/-! DEFINITION. Frame extraction (41_frame_assembly.md): TAKE_MSB, TAKE_LSB and EMIT. A data byte's bit 7 is never
looked at (R72). -/

namespace Sys2Proof.Machine

/-- TAKE_MSB (R68): `vhi <- b[4:1]`, to GOT_MSB. It reads no register, so a ⊥ `chan` (no reachable state) does not stop
it. DEDUCED, log entry 6. -/
def execTakeMsb (b : Byte) (s : State) : Host.Outcome State Fault Refusal :=
  whenEnabled (s.st == .gotChannel) s (.next ((s.putVhi (some (highFieldOf b))).goTo .gotMsb))

/-- TAKE_LSB (R69): the record is formed from `chan`, `vhi` and `b[6:1]` and offered; `chan` and `vhi` become ⊥. -/
def execTakeLsb (b : Byte) (s : State) : Host.Outcome State Fault Refusal :=
  whenEnabled (s.st == .gotMsb) s <|
    readReg .chan s.chan fun c =>
      readReg .vhi s.vhi fun hi =>
        .next ((((s.putRec (some c) (some (valueOf hi (lowFieldOf b)))).putChan none).putVhi none).goTo .complete)

/-- EMIT (R70): the pending record is handed to the consumer; `rec_ch` and `rec_val` become ⊥, to HUNTING. -/
def execEmit (s : State) : Host.Outcome State Fault Refusal :=
  whenEnabled (s.st == .complete) s <|
    readReg .recCh s.recCh fun c =>
      readReg .recVal s.recVal fun v =>
        .next (((s.send (.record c v)).putRec none none).goTo .hunting)

end Sys2Proof.Machine
end

