-- ==== Sys2Proof/Machine/Control.lean ====
section
/-! DEFINITION. The control events: EOS (60_exceptions.md R77) and RESET (70_reset_and_hazards.md R88). -/

namespace Sys2Proof.Machine

/-- EOS (R77): in a reading state the end-of-stream exception is taken. -/
def execEos (s : State) : Host.Outcome State Fault Refusal :=
  whenEnabled s.st.reading s (.next (raiseEndOfStream s))

/-- RESET (R88): in any state every register takes its reset value; nothing is handed out. -/
def execReset (s : State) : Host.Outcome State Fault Refusal :=
  .next (resetRegisters s)

end Sys2Proof.Machine
end

