-- ==== Sys2Proof/Machine/Hunt.lean ====
section
/-! DEFINITION. Channel synchronization (40_synchronizer.md): HUNT_SKIP and HUNT_MARK. -/

namespace Sys2Proof.Machine

/-- HUNT_SKIP (R62): a non-marker byte in HUNTING is discarded without error; no register changes. -/
def execHuntSkip (b : Byte) (s : State) : Host.Outcome State Fault Refusal :=
  whenEnabled (s.st == .hunting && !isMarker b) s (.next (s.goTo .hunting))

/-- HUNT_MARK (R63): a marker byte in HUNTING; `chan <- b[6:1]`, to GOT_CHANNEL. -/
def execHuntMark (b : Byte) (s : State) : Host.Outcome State Fault Refusal :=
  whenEnabled (s.st == .hunting && isMarker b) s (.next ((s.putChan (some (channelOf b))).goTo .gotChannel))

end Sys2Proof.Machine
end

