-- ==== Sys2Proof/Machine/Dispatch.lean ====
section
/-! DEFINITION. One arm per operation of the opcode map (30_encoding.md R49, R54). -/

namespace Sys2Proof.Machine

def exec (i : Instr) (s : State) : Host.Outcome State Fault Refusal :=
  match i with
  | .huntSkip b => Sys2Proof.Machine.execHuntSkip b s
  | .huntMark b => Sys2Proof.Machine.execHuntMark b s
  | .takeMsb b => Sys2Proof.Machine.execTakeMsb b s
  | .takeLsb b => Sys2Proof.Machine.execTakeLsb b s
  | .emit => Sys2Proof.Machine.execEmit s
  | .eos => Sys2Proof.Machine.execEos s
  | .reset => Sys2Proof.Machine.execReset s

end Sys2Proof.Machine
end

