-- ==== Sys2Proof/Machine/Run.lean ====
section
/-! DEFINITION. The step function of 30_encoding.md R54 over an event, its form over an event word, finite and infinite
runs of events (00_scope.md R11), and the runner of R61 that reports where a test program, "a finite run" (R59), stops. -/

namespace Sys2Proof.Machine

/-- R54: `step(S, e)`; no step where the event is not enabled (R50). -/
def applyEvent (e : Event) (s : State) : Host.Outcome State Fault Refusal :=
  match select s.st e with
  | some i => exec i s
  | none => .refused (.notEnabled s.st)

/-- The operation an event word selects in this state, performed; the word's refusal where it selects none. -/
def performWord (w : EventWord) (s : State) : Host.Outcome State Fault Refusal :=
  match decode s.st w with
  | .ok i => exec i s
  | .error r => refuse r

/-- Where a list of events leads: a finite run (R11), or an initial part of an infinite one, stopping at the first event
that has no step. -/
def runEvents : List Event → State → Host.Outcome State Fault Refusal
  | [], s => .next s
  | e :: es, s =>
    match applyEvent e s with
    | .next t => runEvents es t
    | .fault f => .fault f
    | .refused r => .refused r

/-- A finite or infinite sequence: of events, R11's run; of input ports, the edges of 20_memory.md R42's trace. No part
of State: it is the environment's side, and a block has only ever met a finite initial part of it. -/
inductive Trace (α : Type) where
  | finite (xs : List α)
  | infinite (x : Nat → α)

/-- The items before the one numbered `n`, in order: all of them where there are fewer. -/
def Trace.first {α : Type} : Trace α → Nat → List α
  | .finite xs, n => xs.take n
  | .infinite x, n => (List.range n).map x

/-- The item numbered `n`, counted from 0; `none` past the end of a finite sequence. -/
def Trace.item {α : Type} : Trace α → Nat → Option α
  | .finite xs, n => xs[n]?
  | .infinite x, n => some (x n)

/-- R11: the sequence of events, finite or infinite, is a run of the block from `s`: every event has its step in the
state the ones before it leave (log entry 17). -/
def Trace.isRunFrom (r : Trace Event) (s : State) : Prop :=
  ∀ n, ∃ t, runEvents (r.first n) s = .next t

/-- Why a runner stopped (R61). -/
inductive Stop where
  /-- Every event of the program ran. -/
  | finished
  /-- An event's word or its pair with the state was refused. -/
  | refused (r : Refusal)
  /-- A ⊥ register was read. -/
  | fault (f : Fault)
deriving DecidableEq, Repr

/-- A runner's report: how many events ran, the state they left, and why it stopped there. -/
structure Report where
  ran   : Nat
  final : State
  stop  : Stop
deriving DecidableEq, Repr

/-- R61: run a test program's words in order; a not-enabled event is reported, neither skipped nor queued, and nothing
after it runs. -/
def runner : List EventWord → State → Report
  | [], s => { ran := 0, final := s, stop := .finished }
  | w :: ws, s =>
    match performWord w s with
    | .next t => { runner ws t with ran := (runner ws t).ran + 1 }
    | .fault f => { ran := 0, final := s, stop := .fault f }
    | .refused r => { ran := 0, final := s, stop := .refused r }

end Sys2Proof.Machine
end

