-- ==== Sys2Proof/Machine/Step.lean ====
section
/-! DEFINITION. One step of the machine (30_encoding.md R54): the environment's next event word is taken and its
operation performed; with no event offered the block waits. On a refusal or a fault there is no next state, so nothing
is consumed. -/

namespace Sys2Proof.Machine

/-- One step. -/
def step (s : State) : Host.Outcome State Fault Refusal :=
  match fetch s with
  | none => idle s
  | some (w, s') => performWord w s'

/-- The host's way to place a bare table word: it becomes the environment's next event, and the block is seated where the
operation `decodeTableWord` reads from it stands (R49: the operation is selected by the word and `st` together). A number
that is no event word is stored as a word that is refused (R52). Log entry 10. -/
def State.withFetchWord (s : State) (nbits w : Nat) : State :=
  let seated := match decodeTableWord nbits w with
    | some i => seatFor i s
    | none => s
  { seated with pending := (wordOfBits nbits w).getD refusedWord :: s.pending }

end Sys2Proof.Machine
end

