-- ==== Sys2Proof/Machine/Frames.lean ====
section
/-! DEFINITION. The protocol seen from outside the block: the reference encoder (30_encoding.md R58), the stream grammar
and its scan (R44), and the source's `read_frame` (41_frame_assembly.md R75). Nothing here is part of the block. -/

namespace Sys2Proof.Machine

/-- R58: `marker = (ch << 1) | 0x80`. -/
def markerByte (ch : Channel) : Byte := (ch.setWidth 8 <<< 1) ||| 0x80#8

/-- R58: `msb = val[9:6] << 1`. -/
def msbByte (val : Value) : Byte := (val.extractLsb' 6 4).setWidth 8 <<< 1

/-- R58: `lsb = (val[5:0] << 1) | 0x01`. -/
def lsbByte (val : Value) : Byte := ((val.extractLsb' 0 6).setWidth 8 <<< 1) ||| 0x01#8

/-- R58: `Encode(ch, val)`, the canonical three bytes. -/
def encodeFrame (ch : Channel) (val : Value) : List Byte := [markerByte ch, msbByte val, lsbByte val]

/-- A frame's three bytes with the junk read before it (R44). -/
structure Framed where
  junk   : List Byte
  marker : Byte
  msb    : Byte
  lsb    : Byte
deriving DecidableEq, Repr

/-- The bytes of one framed record, in stream order. -/
def Framed.bytes (f : Framed) : List Byte := f.junk ++ [f.marker, f.msb, f.lsb]

/-- The record the rules form from a frame (R45, R46). -/
def Framed.record (f : Framed) : Output :=
  .record (channelOf f.marker) (valueOf (highFieldOf f.msb) (lowFieldOf f.lsb))

/-- The events that read a frame and take its record (R75). -/
def Framed.events (f : Framed) : List Event := f.bytes.map .byte ++ [.take]

/-- A stream as the grammar of R44 divides it: `( junk* frame )* junk* tail?`. -/
structure Parsed where
  frames : List Framed
  junk   : List Byte
  tail   : List Byte
deriving DecidableEq, Repr

/-- The bytes a division stands for. -/
def Parsed.bytes (p : Parsed) : List Byte := p.frames.flatMap Framed.bytes ++ p.junk ++ p.tail

/-- The events of reading a divided stream, each record taken as soon as it is offered. -/
def Parsed.events (p : Parsed) : List Event :=
  p.frames.flatMap Framed.events ++ (p.junk ++ p.tail).map .byte

/-- R44: `tail ::= marker | marker data`, or none. -/
def tailOk : List Byte → Bool
  | [] => true
  | [m] => isMarker m
  | [m, _] => isMarker m
  | _ => false

/-- R44: junk bytes have bit 7 = 0, a frame starts with a marker, and the tail is a frame cut short. -/
def Parsed.ok (p : Parsed) : Bool :=
  p.frames.all (fun f => f.junk.all (fun b => !isMarker b) && isMarker f.marker) &&
  p.junk.all (fun b => !isMarker b) && tailOk p.tail

/-- One more junk byte in front of a division. -/
def Parsed.addJunk (b : Byte) (p : Parsed) : Parsed :=
  match p.frames with
  | [] => { p with junk := b :: p.junk }
  | f :: fs => { p with frames := { f with junk := b :: f.junk } :: fs }

/-- One more frame in front of a division. -/
def Parsed.addFrame (m d1 d2 : Byte) (p : Parsed) : Parsed :=
  { p with frames := { junk := [], marker := m, msb := d1, lsb := d2 } :: p.frames }

/-- R44: "scan left to right and, in HUNTING, start a frame at the first byte with bit 7 set". -/
def scan : List Byte → Parsed
  | [] => { frames := [], junk := [], tail := [] }
  | [b] =>
    if isMarker b then { frames := [], junk := [], tail := [b] } else { frames := [], junk := [b], tail := [] }
  | [b, d] =>
    if isMarker b then { frames := [], junk := [], tail := [b, d] } else (scan [d]).addJunk b
  | b :: d1 :: d2 :: rest =>
    if isMarker b then (scan rest).addFrame b d1 d2 else (scan (d1 :: d2 :: rest)).addJunk b

/-- R75: the source's `read_frame` on a stream: the bytes read with the frame they end in, and the bytes left unread;
`none` where end-of-stream cuts the call short. -/
def readFrame : List Byte → Option (Framed × List Byte)
  | [] => none
  | b :: rest =>
    if isMarker b then
      match rest with
      | d1 :: d2 :: left => some ({ junk := [], marker := b, msb := d1, lsb := d2 }, left)
      | [_] => none
      | [] => none
    else
      match readFrame rest with
      | some (f, left) => some ({ f with junk := b :: f.junk }, left)
      | none => none

end Sys2Proof.Machine
end

