-- ==== Sys2Proof/Machine/Asm.lean ====
section
/-! DEFINITION. The stream notation of 30_encoding.md R59 and R60 ("notation only", 92_eei_decisions.md D20): one event a
line, `BYTES` and `FRAME`, and comments. White space, line ends and the case of hexadecimal digits are DESIGN CHOICE, log
entry 11; what a `dec` is, which R59 uses and does not define, is DESIGN CHOICE, log entry 16. -/

namespace Sys2Proof.Machine

/-- A line of a test program (R59). -/
inductive Line where
  | blank
  | byte (b : Byte)
  | bytes (bs : List Byte)
  | eos
  | take
  | reset
  | frame (ch val : Nat)
deriving DecidableEq, Repr

/-- R59, R60: what an assembler accepts: `BYTES` takes at least one byte, `FRAME` needs `ch` ≤ 63 and `val` ≤ 1023. -/
def Line.ok : Line → Bool
  | .blank => true
  | .byte _ => true
  | .bytes bs => !bs.isEmpty
  | .eos => true
  | .take => true
  | .reset => true
  | .frame ch val => ch ≤ 63 && val ≤ 1023

/-- The events of an accepted line (R60); `FRAME` does not include the TAKE. -/
def Line.events : Line → List Event
  | .blank => []
  | .byte b => [.byte b]
  | .bytes bs => bs.map .byte
  | .eos => [.eos]
  | .take => [.take]
  | .reset => [.reset]
  | .frame ch val => (encodeFrame (BitVec.ofNat 6 ch) (BitVec.ofNat 10 val)).map .byte

/-- R60: the expansion of a line, `none` where an assembler must refuse its operands. -/
def Line.expand (l : Line) : Option (List Event) := if l.ok then some l.events else none

/-- R59: a program assembles to its sequence of event words, in line order. -/
def assembleLines : List Line → Option (List EventWord)
  | [] => some []
  | l :: ls =>
    match l.expand, assembleLines ls with
    | some es, some ws => some (es.map Event.toWord ++ ws)
    | _, _ => none

/-- A finished token, if any, in front of the tokens after it. -/
def putToken (acc : List Char) (ts : List (List Char)) : List (List Char) :=
  if acc.isEmpty then ts else acc.reverse :: ts

/-- The tokens of a line: words between blanks, a comma on its own, nothing from `;` on. -/
def tokens : List Char → List Char → List (List Char)
  | [], acc => putToken acc []
  | c :: cs, acc =>
    if c == ';' then putToken acc []
    else if c == ' ' || c == '\t' then putToken acc (tokens cs [])
    else if c == ',' then putToken acc ([','] :: tokens cs [])
    else tokens cs (c :: acc)

/-- A decimal digit's value: `0` to `9` (DESIGN CHOICE, log entry 16). -/
def decDigit (c : Char) : Option Nat :=
  if '0' ≤ c && c ≤ '9' then some (c.toNat - 48) else none

/-- A hexadecimal digit's value, either case. -/
def hexDigit (c : Char) : Option Nat :=
  if '0' ≤ c && c ≤ '9' then some (c.toNat - 48)
  else if 'A' ≤ c && c ≤ 'F' then some (c.toNat - 55)
  else if 'a' ≤ c && c ≤ 'f' then some (c.toNat - 87)
  else none

/-- R59: `hex8 ::= '0x' two hexadecimal digits`. -/
def hex8 : List Char → Option Byte
  | ['0', 'x', hi, lo] =>
    match hexDigit hi, hexDigit lo with
    | some h, some l => some (BitVec.ofNat 8 (16 * h + l))
    | _, _ => none
  | _ => none

/-- Decimal digits after a value read so far, most significant first, however many (DESIGN CHOICE, log entry 16). -/
def decFrom : Nat → List Char → Option Nat
  | n, [] => some n
  | n, c :: cs =>
    match decDigit c with
    | some d => decFrom (10 * n + d) cs
    | none => none

/-- The operand R59's grammar calls `dec` and does not define. One or more digits `0` to `9`, leading zeros allowed, no
sign: DESIGN CHOICE, log entry 16. -/
def decimal : List Char → Option Nat
  | [] => none
  | c :: cs => decFrom 0 (c :: cs)

/-- Every token a byte. -/
def hexBytes : List (List Char) → Option (List Byte)
  | [] => some []
  | t :: ts =>
    match hex8 t, hexBytes ts with
    | some b, some bs => some (b :: bs)
    | _, _ => none

/-- A line of text (R59); `none` where it is no line of the syntax. Blanks and digit case as log entry 11, `dec` as log
entry 16. -/
def parseLine (cs : List Char) : Option Line :=
  match tokens cs [] with
  | [] => some .blank
  | [['E', 'O', 'S']] => some .eos
  | [['T', 'A', 'K', 'E']] => some .take
  | [['R', 'E', 'S', 'E', 'T']] => some .reset
  | [['B', 'Y', 'T', 'E'], t] => (hex8 t).map .byte
  | ['B', 'Y', 'T', 'E', 'S'] :: t :: ts => (hexBytes (t :: ts)).map .bytes
  | [['F', 'R', 'A', 'M', 'E'], c, [','], v] =>
    match decimal c, decimal v with
    | some ch, some val => some (.frame ch val)
    | _, _ => none
  | _ => none

/-- The lines of a text. -/
def splitLines : List Char → List Char → List (List Char)
  | [], acc => [acc.reverse]
  | c :: cs, acc => if c == '\n' then acc.reverse :: splitLines cs [] else splitLines cs (c :: acc)

/-- Every line parsed, or none. -/
def parseLines : List (List Char) → Option (List Line)
  | [] => some []
  | t :: ts =>
    match parseLine t, parseLines ts with
    | some l, some ls => some (l :: ls)
    | _, _ => none

/-- A test program's text to its event words (R59). -/
def assembleText (cs : List Char) : Option (List EventWord) :=
  match parseLines (splitLines cs []) with
  | some ls => assembleLines ls
  | none => none

end Sys2Proof.Machine
end

