-- ==== Sys2Proof/Machine/Ports.lean ====
section
/-! DEFINITION. The cycle-level realisation of 20_memory.md section 5 (R39 to R42): the ports sampled at one rising edge
of `clk`, the event they select, the edge itself, and the output ports. There is no time in it (R96): one edge after
another is a list, the whole of a finite trace or an initial part of an infinite one (log entry 17). -/

namespace Sys2Proof.Machine

/-- The input ports as sampled at one rising edge (R39). -/
structure PortsIn where
  /-- Synchronous reset, active high. -/
  rst      : Bool
  /-- The source offers `inData`. -/
  inValid  : Bool
  /-- The offered byte. -/
  inData   : Byte
  /-- The source is exhausted (level). -/
  inEos    : Bool
  /-- The consumer takes the record. -/
  outReady : Bool
deriving DecidableEq, Repr

/-- The output ports (R39). -/
structure PortsOut where
  inReady    : Bool
  outValid   : Bool
  /-- `rec_ch`; ⊥ (`none`) outside COMPLETE, where the port means nothing (log entry 8). -/
  outChannel : Option Channel
  /-- `rec_val`; ⊥ (`none`) outside COMPLETE, where the port means nothing (log entry 8). -/
  outValue   : Option Value
  stOut      : BitVec 3
  eosStop    : Bool
deriving DecidableEq, Repr

/-- R41: every output port is a function of the registers alone. -/
def State.ports (s : State) : PortsOut :=
  { inReady := s.inReady, outValid := s.outValid, outChannel := s.recCh, outValue := s.recVal,
    stOut := s.stOut, eosStop := s.eosFlag }

/-- R40: at most one event at an edge, in the order RESET, EOS, BYTE, TAKE. -/
def selectEvent (p : PortsIn) (s : State) : Option Event :=
  if p.rst then some .reset
  else if s.inReady && p.inEos then some .eos
  else if s.inReady && p.inValid then some (.byte p.inData)
  else if s.outValid && p.outReady then some .take
  else none

/-- One rising edge (R40): the selected event's step, or every register holds. -/
def edge (p : PortsIn) (s : State) : Host.Outcome State Fault Refusal :=
  match selectEvent p s with
  | none => .next s
  | some e => applyEvent e s

/-- A finite cycle-level trace, or an initial part of an infinite one: one edge after another. -/
def runEdges : List PortsIn → State → Host.Outcome State Fault Refusal
  | [], s => .next s
  | p :: ps, s =>
    match edge p s with
    | .next t => runEdges ps t
    | .fault f => .fault f
    | .refused r => .refused r

/-- R42: the events of a finite cycle-level trace or of an initial part of an infinite one, the edges with no event
dropped. -/
def projectEdges : List PortsIn → State → List Event
  | [], _ => []
  | p :: ps, s =>
    match selectEvent p s with
    | none => projectEdges ps s
    | some e =>
      match applyEvent e s with
      | .next t => e :: projectEdges ps t
      | .fault _ => [e]
      | .refused _ => [e]

/-- Input ports that ask for one event and nothing else (R42, the converse). -/
def drive : Event → PortsIn
  | .byte b => { rst := false, inValid := true, inData := b, inEos := false, outReady := false }
  | .eos => { rst := false, inValid := false, inData := 0#8, inEos := true, outReady := false }
  | .take => { rst := false, inValid := false, inData := 0#8, inEos := false, outReady := true }
  | .reset => { rst := true, inValid := false, inData := 0#8, inEos := false, outReady := false }

end Sys2Proof.Machine
end

