-- ==== Sys2Proof/Safety.lean ====
section
/-! DEFINITION. The terms claims are stated in: the definedness table of 10_state.md R19, the launch registers (R25, R90),
which states a run can reach, and when a step is safe. -/

namespace Sys2Proof.Machine

/-- The table of R19: which registers hold a value in each controller state. The ranges are the registers' widths. -/
def State.defined (s : State) : Bool :=
  match s.st with
  | .hunting => s.chan.isNone && s.vhi.isNone && s.recCh.isNone && s.recVal.isNone
  | .gotChannel => s.chan.isSome && s.vhi.isNone && s.recCh.isNone && s.recVal.isNone
  | .gotMsb => s.chan.isSome && s.vhi.isSome && s.recCh.isNone && s.recVal.isNone
  | .complete => s.chan.isNone && s.vhi.isNone && s.recCh.isSome && s.recVal.isSome
  | .eosStop => s.chan.isNone && s.vhi.isNone && s.recCh.isNone && s.recVal.isNone

/-- The launch state's registers (R25, R90), whatever the environment holds. -/
def State.atLaunch (s : State) : Prop :=
  s.st = .hunting ∧ s.chan = none ∧ s.vhi = none ∧ s.recCh = none ∧ s.recVal = none

/-- Two states whose registers agree; the environment's side may differ. -/
def State.sameRegisters (s t : State) : Prop :=
  s.st = t.st ∧ s.chan = t.chan ∧ s.vhi = t.vhi ∧ s.recCh = t.recCh ∧ s.recVal = t.recVal

/-- The states RESET and the enabled events reach (R19, R90): from the reset state, whatever the environment offers
(R38: "every such choice"). -/
inductive Reachable : State → Prop where
  | launch : Reachable State.reset
  | offer (s : State) (ws : List EventWord) : Reachable s → Reachable (s.offer ws)
  | step (s t : State) : Reachable s → step s = .next t → Reachable t
  | event (s t : State) (e : Event) : Reachable s → applyEvent e s = .next t → Reachable t
  | edge (s t : State) (p : PortsIn) : Reachable s → edge p s = .next t → Reachable t

/-- A step is safe where it does not fault: no ⊥ register is read (R18). -/
def State.safe (s : State) : Prop :=
  ∀ f, step s ≠ .fault f

end Sys2Proof.Machine
end

