-- ==== Sys2Proof/Certificates/Slice0/Obligations.lean ====
section
/-! DEFINITION. The statements for the provers, in the order of OBLIGATIONS.json. A statement of the spec's plain rules
cites the rule; a statement of a rule the spec marks as its own decision or derivation says so. `0b00#2 ++ b` is the
event word of BYTE b, written from 30_encoding.md R48. -/

open Sys2Proof Sys2Proof.Machine

/-! ## Encoding and the opcode map -/

/-- Event words and events stand for each other, one to one, on the words R48 lists (the spec's decision D11). -/
def Obligations.EventWordsRoundTrip : Prop :=
  (∀ e : Event, Event.ofWord e.toWord = .ok e) ∧
  (∀ (w : EventWord) (e : Event), Event.ofWord w = .ok e → e.toWord = w) ∧
  (∀ b : Byte, kindOf (Event.byte b).toWord = 0b00#2 ∧ dataOf (Event.byte b).toWord = b) ∧
  kindOf Event.eos.toWord = 0b01#2 ∧ dataOf Event.eos.toWord = 0x00#8 ∧
  kindOf Event.take.toWord = 0b10#2 ∧ dataOf Event.take.toWord = 0x00#8 ∧
  kindOf Event.reset.toWord = 0b11#2 ∧ dataOf Event.reset.toWord = 0x00#8

/-- A word of a non-BYTE kind with data bits set is refused in every controller state, by the decoder and by step (the
spec's decision D11). -/
def Obligations.NonZeroDataRefused : Prop :=
  ∀ (w : EventWord), w.extractLsb' 8 2 ≠ 0b00#2 → w.extractLsb' 0 8 ≠ 0x00#8 →
    (∀ st : Ctrl, decode st w = .error (.notAnEvent w)) ∧
    ∀ (s : State) (rest : List EventWord), step { s with pending := w :: rest } = .refused (.notAnEvent w)

/-- Words written out bit by bit from the rules' "Encoding" lines decode to the operations they stand for. -/
def Obligations.WrittenOutWordsDecode : Prop :=
  decode .hunting 0b0000101011#10 = .ok (.huntSkip 0x2B#8) ∧
  decode .hunting 0b0010001010#10 = .ok (.huntMark 0x8A#8) ∧
  decode .gotChannel 0b0000001010#10 = .ok (.takeMsb 0x0A#8) ∧
  decode .gotMsb 0b0000101011#10 = .ok (.takeLsb 0x2B#8) ∧
  decode .complete 0b1000000000#10 = .ok .emit ∧
  decode .gotMsb 0b0100000000#10 = .ok .eos ∧
  decode .eosStop 0b1100000000#10 = .ok .reset ∧
  decode .hunting 0b0100000001#10 = .error (.notAnEvent 0x101#10) ∧
  decode .complete 0b0010001010#10 = .error (.notEnabled .complete)

/-- Decoding the word of a well-formed operation, in any state it stands in, gives the operation back with its whole
byte. -/
def Obligations.DecodeOfEncode : Prop :=
  ∀ (i : Instr) (st : Ctrl), i.wellFormed = true → i.standsIn st = true → decode st (encode i) = .ok i

/-- A word decodes to one operation only, a well-formed one that stands in the state, and no bit of the word is lost. -/
def Obligations.EncodeOfDecode : Prop :=
  ∀ (st : Ctrl) (w : EventWord) (i : Instr), decode st w = .ok i →
    encode i = w ∧ i.wellFormed = true ∧ i.standsIn st = true

/-- The decoder and the rows of opcode_table.json agree: in every controller state a word that decodes is selected by
exactly one row, the operation's own, and a word that does not is selected by none. -/
def Obligations.DecodeAgreesWithOpcodeTable : Prop :=
  ∀ (st : Ctrl) (w : EventWord),
    (opcodeRows.filter (fun r => r.selects st w)).map OpcodeRow.mnemonic =
      match decode st w with
      | .ok i => [i.mnemonic]
      | .error _ => []

/-- The pairs of R50 have no step, at the event level and at the word level (the spec's decisions D4 to D6): BYTE and
EOS in COMPLETE and EOS_STOP, TAKE outside COMPLETE; and these are all: every other pair selects an operation. That the
absence of a step shows as a refusal by name is the model's choice, log entry 4. -/
def Obligations.NotEnabledPairsHaveNoStep : Prop :=
  (∀ (s : State) (e : Event),
    ((s.st = .complete ∨ s.st = .eosStop) ∧ (e = .eos ∨ ∃ b, e = .byte b)) ∨ (s.st ≠ .complete ∧ e = .take) →
      applyEvent e s = .refused (.notEnabled s.st) ∧
      ∀ rest, step { s with pending := e.toWord :: rest } = .refused (.notEnabled s.st)) ∧
  (∀ (st : Ctrl) (e : Event), select st e = none →
    ((st = .complete ∨ st = .eosStop) ∧ (e = .eos ∨ ∃ b, e = .byte b)) ∨ (st ≠ .complete ∧ e = .take))

/-- R21: every event that occurs moves `st` by one of the listed moves, and no state is left without an event. -/
def Obligations.EventsMoveStAsListed : Prop :=
  (∀ (e : Event) (s t : State), applyEvent e s = .next t →
    (s.st = .hunting ∧ ∃ b, e = .byte b ∧ b.getLsbD 7 = false ∧ t.st = .hunting) ∨
    (s.st = .hunting ∧ ∃ b, e = .byte b ∧ b.getLsbD 7 = true ∧ t.st = .gotChannel) ∨
    (s.st = .gotChannel ∧ (∃ b, e = .byte b) ∧ t.st = .gotMsb) ∨
    (s.st = .gotMsb ∧ (∃ b, e = .byte b) ∧ t.st = .complete) ∨
    (s.st = .complete ∧ e = .take ∧ t.st = .hunting) ∨
    ((s.st = .hunting ∨ s.st = .gotChannel ∨ s.st = .gotMsb) ∧ e = .eos ∧ t.st = .eosStop) ∨
    (e = .reset ∧ t.st = .hunting)) ∧
  (∀ s : State, ∃ e t, applyEvent e s = .next t)

/-! ## State, flags and the definedness invariant -/

/-- The three flags are functions of `st`, `in_ready` and `out_valid` are never both 1, `out_valid` and `eos_stop` are
never both 1, and RESET leaves 1, 0, 0 (the spec's decisions D9, D13). -/
def Obligations.StatusFlagsFollowSt : Prop :=
  (∀ s : State,
    (s.inReady = true ↔ s.st = .hunting ∨ s.st = .gotChannel ∨ s.st = .gotMsb) ∧
    (s.outValid = true ↔ s.st = .complete) ∧
    (s.eosFlag = true ↔ s.st = .eosStop) ∧
    ¬ (s.inReady = true ∧ s.outValid = true) ∧
    ¬ (s.outValid = true ∧ s.eosFlag = true)) ∧
  (∀ s t : State, exec .reset s = .next t → t.inReady = true ∧ t.outValid = false ∧ t.eosFlag = false)

/-- `st_out` encodes the five controller states as 0 to 4 and is never 5, 6 or 7; a reader gets the state back (the
spec's decision D10). -/
def Obligations.StatusCodeNamesState : Prop :=
  Ctrl.hunting.code = 0#3 ∧ Ctrl.gotChannel.code = 1#3 ∧ Ctrl.gotMsb.code = 2#3 ∧ Ctrl.complete.code = 3#3 ∧
  Ctrl.eosStop.code = 4#3 ∧
  (∀ s : State, s.stOut ≠ 5#3 ∧ s.stOut ≠ 6#3 ∧ s.stOut ≠ 7#3 ∧ Ctrl.ofCode s.stOut = some s.st)

/-- The reset state: HUNTING, every datapath register ⊥, flags 1, 0, 0 (the spec's decision D7). That nothing is pending
and nothing has been sent is the model's own choice, log entries 1 and 2; that the ports `out_channel` and `out_value`
show no value while `out_valid` is 0 is the model's own choice, log entry 8. -/
def Obligations.ResetStateValues : Prop :=
  State.reset.st = .hunting ∧ State.reset.chan = none ∧ State.reset.vhi = none ∧ State.reset.recCh = none ∧
  State.reset.recVal = none ∧ State.reset.pending = [] ∧ State.reset.sent = [] ∧
  State.reset.ports =
    { inReady := true, outValid := false, outChannel := none, outValue := none, stOut := 0#3, eosStop := false }

/-- The definedness table of R19 holds at reset. -/
def Obligations.DefinedAtReset : Prop :=
  State.reset.defined = true

/-- Every step keeps the definedness table, from every state that has it (R19 is derived by the spec). -/
def Obligations.StepKeepsDefined : Prop :=
  ∀ s t : State, s.defined = true → step s = .next t → t.defined = true

/-- The definedness table holds in every state that RESET and the enabled events reach, whatever the environment
chooses (R19 is derived by the spec). -/
def Obligations.ReachableStatesAreDefined : Prop :=
  ∀ s : State, Reachable s → s.defined = true

/-- No run reads a ⊥ register: no reachable state's step faults, nor any clock edge there (R18, R19; the spec's decision
D24). -/
def Obligations.ReachableStepsNeverFault : Prop :=
  ∀ s : State, Reachable s →
    s.safe ∧ (∀ (e : Event) (f : Fault), applyEvent e s ≠ .fault f) ∧
    ∀ (p : PortsIn) (f : Fault), edge p s ≠ .fault f

/-- An operation that reads a ⊥ register faults and names it (the spec's decision D24): TAKE_LSB reads `chan` and `vhi`,
EMIT reads `rec_ch` and `rec_val`. -/
def Obligations.ReadingNoValueFaults : Prop :=
  (∀ (s : State) (b : Byte), s.st = .gotMsb → s.chan = none → exec (.takeLsb b) s = .fault (.noValue .chan)) ∧
  (∀ (s : State) (b : Byte) (c : Channel), s.st = .gotMsb → s.chan = some c → s.vhi = none →
    exec (.takeLsb b) s = .fault (.noValue .vhi)) ∧
  (∀ s : State, s.st = .complete → s.recCh = none → exec .emit s = .fault (.noValue .recCh)) ∧
  (∀ (s : State) (c : Channel), s.st = .complete → s.recCh = some c → s.recVal = none →
    exec .emit s = .fault (.noValue .recVal))

/-- R15 to R17: where each datapath register holds a value (under the invariant ReachableStatesAreDefined states), the
one operation that gives it one, and what reads it: HUNT_MARK writes `chan`, TAKE_MSB `vhi`, TAKE_LSB reads both and
writes the record, EMIT hands the record on. -/
def Obligations.DatapathRegistersLiveWhereSaid : Prop :=
  (∀ s : State, s.defined = true →
    (s.chan.isSome = true ↔ s.st = .gotChannel ∨ s.st = .gotMsb) ∧
    (s.vhi.isSome = true ↔ s.st = .gotMsb) ∧
    (s.recCh.isSome = true ↔ s.st = .complete) ∧
    (s.recVal.isSome = true ↔ s.st = .complete)) ∧
  (∀ (i : Instr) (s t : State) (c : Channel), exec i s = .next t → t.chan = some c → s.chan ≠ some c →
    ∃ b, i = .huntMark b ∧ c = b.extractLsb' 1 6) ∧
  (∀ (i : Instr) (s t : State) (h : HighField), exec i s = .next t → t.vhi = some h → s.vhi ≠ some h →
    ∃ b, i = .takeMsb b ∧ h = b.extractLsb' 1 4) ∧
  (∀ (i : Instr) (s t : State), exec i s = .next t → t.recCh ≠ s.recCh ∨ t.recVal ≠ s.recVal →
    (t.recCh = none ∧ t.recVal = none) ∨
    ∃ b c h, i = .takeLsb b ∧ s.chan = some c ∧ s.vhi = some h ∧ t.recCh = some c ∧
      t.recVal = some (h ++ b.extractLsb' 1 6)) ∧
  (∀ s t : State, exec .emit s = .next t →
    ∃ c v, s.recCh = some c ∧ s.recVal = some v ∧ t.sent = s.sent ++ [.record c v])

/-! ## The seven operations -/

/-- R62, HUNT_SKIP: in HUNTING a byte with bit 7 = 0 is discarded: nothing changes but that the byte is consumed; the
flags are 1, 0, 0 before and after. -/
def Obligations.HuntSkipDiscardsByte : Prop :=
  ∀ (s : State) (b : Byte), s.st = .hunting → b.getLsbD 7 = false →
    exec (.huntSkip b) s = .next s ∧
    decode s.st (0b00#2 ++ b) = .ok (.huntSkip b) ∧
    (∀ rest, step { s with pending := (0b00#2 ++ b) :: rest } = .next { s with pending := rest }) ∧
    s.inReady = true ∧ s.outValid = false ∧ s.eosFlag = false

/-- R63, HUNT_MARK: in HUNTING a byte with bit 7 = 1 gives `chan` its bits 6..1 and moves to GOT_CHANNEL; nothing else
changes but that the byte is consumed. 0x80 and 0x81 give channel 0, 0xFE and 0xFF channel 63; the same byte in
GOT_CHANNEL or GOT_MSB is data. -/
def Obligations.HuntMarkLatchesChannel : Prop :=
  (∀ (s : State) (b : Byte), s.st = .hunting → b.getLsbD 7 = true →
    exec (.huntMark b) s = .next { s with chan := some (b.extractLsb' 1 6), st := .gotChannel } ∧
    decode s.st (0b00#2 ++ b) = .ok (.huntMark b) ∧
    (∀ rest, step { s with pending := (0b00#2 ++ b) :: rest } =
      .next { s with pending := rest, chan := some (b.extractLsb' 1 6), st := .gotChannel }) ∧
    (∀ t, exec (.huntMark b) s = .next t →
      s.inReady = true ∧ s.outValid = false ∧ s.eosFlag = false ∧ s.stOut = 0#3 ∧
      t.inReady = true ∧ t.outValid = false ∧ t.eosFlag = false ∧ t.stOut = 1#3)) ∧
  (∀ s t : State, exec (.huntMark 0x80#8) s = .next t ∨ exec (.huntMark 0x81#8) s = .next t → t.chan = some 0#6) ∧
  (∀ s t : State, exec (.huntMark 0xFE#8) s = .next t ∨ exec (.huntMark 0xFF#8) s = .next t → t.chan = some 63#6) ∧
  (∀ b : Byte, decode .gotChannel (0b00#2 ++ b) = .ok (.takeMsb b) ∧ decode .gotMsb (0b00#2 ++ b) = .ok (.takeLsb b))

/-- R68, TAKE_MSB: in GOT_CHANNEL any byte gives `vhi` its bits 4..1 and moves to GOT_MSB; nothing else changes but that
the byte is consumed. -/
def Obligations.TakeMsbLatchesHighField : Prop :=
  ∀ (s : State) (b : Byte), s.st = .gotChannel → s.chan ≠ none →
    exec (.takeMsb b) s = .next { s with vhi := some (b.extractLsb' 1 4), st := .gotMsb } ∧
    decode s.st (0b00#2 ++ b) = .ok (.takeMsb b) ∧
    (∀ rest, step { s with pending := (0b00#2 ++ b) :: rest } =
      .next { s with pending := rest, vhi := some (b.extractLsb' 1 4), st := .gotMsb }) ∧
    (∀ t, exec (.takeMsb b) s = .next t →
      s.inReady = true ∧ s.outValid = false ∧ s.stOut = 1#3 ∧
      t.inReady = true ∧ t.outValid = false ∧ t.stOut = 2#3)

/-- TAKE_MSB in GOT_CHANNEL with `chan` ⊥, a state no run reaches: it reads no register, so it goes on as otherwise and
the next TAKE_LSB faults (the model's choice, log entry 6). -/
def Obligations.TakeMsbWithoutChannelGoesOn : Prop :=
  ∀ (s : State) (b b' : Byte), s.st = .gotChannel → s.chan = none →
    ∃ t, exec (.takeMsb b) s = .next t ∧ t = { s with vhi := some (b.extractLsb' 1 4), st := .gotMsb } ∧
      exec (.takeLsb b') t = .fault (.noValue .chan)

/-- R69, TAKE_LSB: in GOT_MSB any byte forms the record: `rec_ch` is `chan`, `rec_val` is `vhi` over the byte's bits
6..1; `chan` and `vhi` become ⊥, to COMPLETE; no output; nothing else changes but that the byte is consumed. -/
def Obligations.TakeLsbFormsRecord : Prop :=
  ∀ (s : State) (b : Byte) (c : Channel) (h : HighField), s.st = .gotMsb → s.chan = some c → s.vhi = some h →
    exec (.takeLsb b) s =
      .next { s with recCh := some c, recVal := some (h ++ b.extractLsb' 1 6), chan := none, vhi := none,
                     st := .complete } ∧
    decode s.st (0b00#2 ++ b) = .ok (.takeLsb b) ∧
    (∀ rest, step { s with pending := (0b00#2 ++ b) :: rest } =
      .next { s with pending := rest, recCh := some c, recVal := some (h ++ b.extractLsb' 1 6), chan := none,
                     vhi := none, st := .complete }) ∧
    (∀ t, exec (.takeLsb b) s = .next t →
      s.inReady = true ∧ s.outValid = false ∧ s.stOut = 2#3 ∧
      t.inReady = false ∧ t.outValid = true ∧ t.stOut = 3#3)

/-- R70, EMIT: in COMPLETE the TAKE event hands `record(rec_ch, rec_val)` out; `rec_ch` and `rec_val` become ⊥, to
HUNTING; nothing else changes. -/
def Obligations.EmitHandsRecordOut : Prop :=
  ∀ (s : State) (c : Channel) (v : Value), s.st = .complete → s.recCh = some c → s.recVal = some v →
    exec .emit s =
      .next { s with sent := s.sent ++ [.record c v], recCh := none, recVal := none, st := .hunting } ∧
    decode s.st 0b1000000000#10 = .ok .emit ∧
    (∀ rest, step { s with pending := 0b1000000000#10 :: rest } =
      .next { s with pending := rest, sent := s.sent ++ [.record c v], recCh := none, recVal := none,
                     st := .hunting }) ∧
    (∀ t, exec .emit s = .next t →
      s.inReady = false ∧ s.outValid = true ∧ s.stOut = 3#3 ∧
      t.inReady = true ∧ t.outValid = false ∧ t.stOut = 0#3)

/-- EOS, the one exception (R77, the spec's decisions D2 and D6): in a reading state it reports `eos`, discards `chan`
and `vhi` and goes to EOS_STOP; it saves nothing and changes nothing else. -/
def Obligations.EosEntersEosStop : Prop :=
  ∀ s : State, s.st = .hunting ∨ s.st = .gotChannel ∨ s.st = .gotMsb →
    exec .eos s = .next { s with sent := s.sent ++ [.eos], chan := none, vhi := none, st := .eosStop } ∧
    decode s.st 0b0100000000#10 = .ok .eos ∧
    (∀ rest, step { s with pending := 0b0100000000#10 :: rest } =
      .next { s with pending := rest, sent := s.sent ++ [.eos], chan := none, vhi := none, st := .eosStop }) ∧
    (∀ t, exec .eos s = .next t →
      s.outValid = false ∧ t.inReady = false ∧ t.outValid = false ∧ t.eosFlag = true ∧ t.stOut = 4#3)

/-- RESET (R88, the spec's decision D7): in any state, `st` HUNTING and every datapath register ⊥, nothing handed out,
nothing else changed. -/
def Obligations.ResetClearsRegisters : Prop :=
  ∀ s : State,
    exec .reset s =
      .next { s with st := .hunting, chan := none, vhi := none, recCh := none, recVal := none } ∧
    decode s.st 0b1100000000#10 = .ok .reset ∧
    (∀ rest, step { s with pending := 0b1100000000#10 :: rest } =
      .next { s with pending := rest, st := .hunting, chan := none, vhi := none, recCh := none, recVal := none }) ∧
    (∀ t, exec .reset s = .next t →
      t.inReady = true ∧ t.outValid = false ∧ t.eosFlag = false ∧ t.stOut = 0#3)

/-- The frame of each operation that answers a next state: the registers and outputs it does not write are kept, and no
operation touches the environment's list. The block has no memory. -/
def Obligations.OperationsKeepWhatTheyDoNotWrite : Prop :=
  ∀ (i : Instr) (s t : State), exec i s = .next t →
    t.pending = s.pending ∧
    match i with
    | .huntSkip _ =>
      t.st = s.st ∧ t.chan = s.chan ∧ t.vhi = s.vhi ∧ t.recCh = s.recCh ∧ t.recVal = s.recVal ∧ t.sent = s.sent
    | .huntMark _ => t.vhi = s.vhi ∧ t.recCh = s.recCh ∧ t.recVal = s.recVal ∧ t.sent = s.sent
    | .takeMsb _ => t.chan = s.chan ∧ t.recCh = s.recCh ∧ t.recVal = s.recVal ∧ t.sent = s.sent
    | .takeLsb _ => t.sent = s.sent
    | .emit => t.chan = s.chan ∧ t.vhi = s.vhi
    | .eos => t.recCh = s.recCh ∧ t.recVal = s.recVal
    | .reset => t.sent = s.sent

/-- Outside its row of the opcode map an operation has no step: in a controller state it does not stand in, or with a byte
its row does not admit (the model's choice, log entries 4 and 5). -/
def Obligations.OperationsRefuseOutsideTheirRow : Prop :=
  ∀ (i : Instr) (s : State), i.standsIn s.st = false ∨ i.wellFormed = false →
    exec i s = .refused (.notEnabled s.st)

/-! ## Fields -/

/-- R45: the channel is bits 6..1 of the marker, in [0, 63]; bit 7 and bit 0 take no part. -/
def Obligations.ChannelIsBits6To1 : Prop :=
  (∀ b : Byte, channelOf b = b.extractLsb' 1 6 ∧ (channelOf b).toNat = b.toNat / 2 % 64 ∧ (channelOf b).toNat ≤ 63) ∧
  (∀ b : Byte, channelOf (b ^^^ 0x80#8) = channelOf b ∧ channelOf (b ^^^ 0x01#8) = channelOf b)

/-- R46: the msb field is bits 4..1, the lsb field bits 6..1, and the value is the one over the other, vhi * 64 + vlo,
in [0, 1023]; the bits the formula ignores change nothing. -/
def Obligations.ValueIsHighOverLow : Prop :=
  (∀ m : Byte, highFieldOf m = m.extractLsb' 1 4 ∧ (highFieldOf m).toNat = m.toNat % 32 / 2) ∧
  (∀ l : Byte, lowFieldOf l = l.extractLsb' 1 6 ∧ (lowFieldOf l).toNat = l.toNat / 2 % 64) ∧
  (∀ (h : HighField) (l : LowField),
    valueOf h l = h ++ l ∧ (valueOf h l).toNat = h.toNat * 64 + l.toNat ∧ (valueOf h l).toNat ≤ 1023) ∧
  (∀ m m' : Byte, m &&& 0xE1#8 = m → highFieldOf m = 0#4 ∧ highFieldOf (m' ^^^ m) = highFieldOf m') ∧
  (∀ l l' : Byte, l &&& 0x81#8 = l → lowFieldOf l = 0#6 ∧ lowFieldOf (l' ^^^ l) = lowFieldOf l')

/-- R43: the three byte roles bit by bit, and the state that reads a byte decides its role. -/
def Obligations.ByteRolesBitByBit : Prop :=
  (∀ (c : Channel) (x : BitVec 1),
    decode .hunting (0b00#2 ++ (0b1#1 ++ c ++ x)) = .ok (.huntMark (0b1#1 ++ c ++ x)) ∧
    channelOf (0b1#1 ++ c ++ x) = c) ∧
  (∀ (x : BitVec 3) (h : HighField) (y : BitVec 1),
    decode .gotChannel (0b00#2 ++ (x ++ h ++ y)) = .ok (.takeMsb (x ++ h ++ y)) ∧ highFieldOf (x ++ h ++ y) = h) ∧
  (∀ (x : BitVec 1) (l : LowField) (y : BitVec 1),
    decode .gotMsb (0b00#2 ++ (x ++ l ++ y)) = .ok (.takeLsb (x ++ l ++ y)) ∧ lowFieldOf (x ++ l ++ y) = l)

/-- R51: every byte has a defined effect in each reading state, from every state that meets the definedness invariant; a
non-marker byte in HUNTING is discarded without error; the ignored bits of a marker and of a data byte change nothing. -/
def Obligations.EveryByteHasAnEffect : Prop :=
  (∀ (s : State) (b : Byte), s.defined = true → s.st = .hunting ∨ s.st = .gotChannel ∨ s.st = .gotMsb →
    ∃ t, applyEvent (.byte b) s = .next t) ∧
  (∀ (s : State) (b : Byte), s.st = .hunting → b.getLsbD 7 = false → applyEvent (.byte b) s = .next s) ∧
  (∀ (s : State) (b b' : Byte), s.st = .hunting → b.extractLsb' 1 7 = b'.extractLsb' 1 7 →
    applyEvent (.byte b) s = applyEvent (.byte b') s) ∧
  (∀ (s : State) (b b' : Byte), s.st = .gotChannel → b.extractLsb' 1 4 = b'.extractLsb' 1 4 →
    applyEvent (.byte b) s = applyEvent (.byte b') s) ∧
  (∀ (s : State) (b b' : Byte), s.st = .gotMsb → b.extractLsb' 1 6 = b'.extractLsb' 1 6 →
    applyEvent (.byte b) s = applyEvent (.byte b') s)

/-- R31: most-significant part first: the first data byte's bits 4..1 are value bits 9..6, the second's bits 6..1 value
bits 5..0. -/
def Obligations.ValueComesMsbFirst : Prop :=
  ∀ (s : State) (c : Channel) (m l : Byte), s.st = .gotChannel → s.chan = some c →
    ∃ t v, runEvents [.byte m, .byte l] s = .next t ∧ t.st = .complete ∧ t.recVal = some v ∧
      v.extractLsb' 6 4 = m.extractLsb' 1 4 ∧ v.extractLsb' 0 6 = l.extractLsb' 1 6

/-! ## Hunting and frames -/

/-- Inside a frame a byte is taken as data whatever its bit 7: no check, no re-hunt, no output (R72). That the first
clause holds where `chan` is ⊥ too, a state no run reaches and outside TAKE_MSB's precondition, is the model's choice, log
entry 6. -/
def Obligations.DataBytesAreNeverValidated : Prop :=
  (∀ (s : State) (b : Byte), s.st = .gotChannel →
    ∃ t, applyEvent (.byte b) s = .next t ∧ t.st = .gotMsb ∧ t.chan = s.chan ∧ t.sent = s.sent) ∧
  (∀ (s : State) (b : Byte) (c : Channel) (h : HighField), s.st = .gotMsb → s.chan = some c → s.vhi = some h →
    ∃ t, applyEvent (.byte b) s = .next t ∧ t.st = .complete ∧ t.recCh = some c ∧ t.sent = s.sent)

/-- R53: a frame is three bytes whatever they hold, after any number of discarded bytes; only bit 7 of a byte read in
HUNTING says where it starts. -/
def Obligations.FrameIsThreeBytes : Prop :=
  ∀ (s : State) (junk : List Byte) (m d1 d2 : Byte), s.st = .hunting →
    (∀ b ∈ junk, b.getLsbD 7 = false) → m.getLsbD 7 = true →
    ∃ t1 t2 t3,
      runEvents (junk.map .byte) s = .next s ∧
      runEvents ((junk ++ [m]).map .byte) s = .next t1 ∧ t1.st = .gotChannel ∧
      runEvents ((junk ++ [m, d1]).map .byte) s = .next t2 ∧ t2.st = .gotMsb ∧
      runEvents ((junk ++ [m, d1, d2]).map .byte) s = .next t3 ∧ t3.st = .complete

/-- Resynchronization (R65, derived by the spec): any finite prefix of bytes with bit 7 = 0 changes neither the state
after the frame nor the record it gives. -/
def Obligations.ResynchronizationAfterAnyJunk : Prop :=
  ∀ (s : State) (junk : List Byte) (m d1 d2 : Byte), s.atLaunch →
    (∀ b ∈ junk, b.getLsbD 7 = false) → m.getLsbD 7 = true →
    runEvents ((junk ++ [m, d1, d2]).map .byte) s = runEvents ([m, d1, d2].map .byte) s ∧
    runEvents ((junk ++ [m, d1, d2]).map .byte ++ [.take]) s =
      .next { s with sent := s.sent ++ [.record (m.extractLsb' 1 6) (d1.extractLsb' 1 4 ++ d2.extractLsb' 1 6)] }

/-- Endless hunting (R67, derived by the spec): any number of bytes with bit 7 = 0 leaves HUNTING as it was, with no
output, and each is consumed; an endless stream of them is an infinite run that stays in that one state for ever. -/
def Obligations.EndlessHuntingEmitsNothing : Prop :=
  (∀ (s : State) (bs : List Byte), s.st = .hunting → (∀ b ∈ bs, b.getLsbD 7 = false) →
    runEvents (bs.map .byte) s = .next s ∧
    Host.Core.run Sys2Proof.core bs.length { s with pending := bs.map fun b => 0b00#2 ++ b } =
      .next { s with pending := [] }) ∧
  (∀ (s : State) (bs : Nat → Byte), s.st = .hunting → (∀ k, (bs k).getLsbD 7 = false) →
    (Trace.infinite fun k => Event.byte (bs k)).isRunFrom s ∧
    ∀ n, runEvents ((Trace.infinite fun k => Event.byte (bs k)).first n) s = .next s)

/-- R58: the reference encoder's three bytes, bit by bit; both data bytes are below 0x80; the spec's example. -/
def Obligations.ReferenceEncoderBytes : Prop :=
  (∀ (ch : Channel) (val : Value),
    encodeFrame ch val =
      [0b1#1 ++ ch ++ 0b0#1, 0b000#3 ++ val.extractLsb' 6 4 ++ 0b0#1, 0b0#1 ++ val.extractLsb' 0 6 ++ 0b1#1] ∧
    (encodeFrame ch val).length = Config.frameLength) ∧
  (∀ val : Value, (msbByte val).toNat < 0x80 ∧ (lsbByte val).toNat < 0x80) ∧
  encodeFrame 5#6 341#10 = [0x8A#8, 0x0A#8, 0x2B#8]

/-- Round trip (R74, derived by the spec): from the launch registers the three bytes of `Encode(ch, val)` and a TAKE emit
exactly `record(ch, val)` and end in the launch registers, for every channel and value. -/
def Obligations.EncodedFrameRoundTrip : Prop :=
  ∀ (s : State) (ch : Channel) (val : Value), s.atLaunch →
    runEvents ((encodeFrame ch val).map .byte ++ [.take]) s = .next { s with sent := s.sent ++ [.record ch val] }

/-- Every finite byte sequence is a stream of the grammar in exactly one way, the one the scan finds (R44, derived by
the spec). -/
def Obligations.StreamGrammarIsUnambiguous : Prop :=
  ∀ bs : List Byte,
    (scan bs).ok = true ∧ (scan bs).bytes = bs ∧ ∀ p : Parsed, p.ok = true → p.bytes = bs → p = scan bs

/-- A whole stream, its records taken as they come (R36, R44, R75, derived by the spec): from the launch registers the
block emits exactly the records of the stream's frames, in the order of the frames, and stands where the cut-short
tail leaves it. -/
def Obligations.StreamEmitsItsFramesRecords : Prop :=
  ∀ (s : State) (bs : List Byte), s.atLaunch →
    ∃ t, runEvents (scan bs).events s = .next t ∧
      t.sent = s.sent ++ (scan bs).frames.map Framed.record ∧
      t.st = (match (scan bs).tail with
        | [] => .hunting
        | [_] => .gotChannel
        | _ => .gotMsb)

/-- `read_frame` as a run (R75, derived by the spec): where the call returns, the block fed the bytes it read and a TAKE
emits what it returns, leaves the launch registers and the rest of the stream unread; where end-of-stream cuts the call
short, the block fed the whole stream and EOS emits no record and stops. -/
def Obligations.ReadFrameIsOneRunSegment : Prop :=
  (∀ (s : State) (bs left : List Byte) (f : Framed), s.atLaunch → readFrame bs = some (f, left) →
    f.bytes ++ left = bs ∧ runEvents f.events s = .next { s with sent := s.sent ++ [f.record] }) ∧
  (∀ (s : State) (bs : List Byte), s.atLaunch → readFrame bs = none →
    runEvents (bs.map .byte ++ [.eos]) s = .next { s with sent := s.sent ++ [.eos], st := .eosStop })

/-- Loss of a data byte (R91, derived by the spec): with one data byte of a frame lost, the next frame's marker is taken in its place, one
wrong record of the right channel goes out, that next frame is lost, and the frame after it decodes. The example is
program P3. -/
def Obligations.LostDataByteGivesOneWrongRecord : Prop :=
  (∀ (s : State) (m1 d m2 r1 r2 m3 e1 e2 : Byte), s.atLaunch →
    m1.getLsbD 7 = true → m2.getLsbD 7 = true → r1.getLsbD 7 = false → r2.getLsbD 7 = false → m3.getLsbD 7 = true →
    runEvents ([.byte m1, .byte d, .byte m2, .take, .byte r1, .byte r2, .byte m3, .byte e1, .byte e2, .take]) s =
      .next { s with sent := s.sent ++
        [.record (m1.extractLsb' 1 6) (d.extractLsb' 1 4 ++ m2.extractLsb' 1 6),
         .record (m3.extractLsb' 1 6) (e1.extractLsb' 1 4 ++ e2.extractLsb' 1 6)] }) ∧
  (∀ s : State, s.atLaunch →
    runEvents ([.byte 0x82#8, .byte 0x02#8, .byte 0x84#8, .take, .byte 0x06#8, .byte 0x11#8, .byte 0x86#8,
      .byte 0x08#8, .byte 0x59#8, .take]) s =
      .next { s with sent := s.sent ++ [.record 1#6 66#10, .record 3#6 300#10] })

/-- Loss of a marker (R92, derived by the spec): the two data bytes left are discarded where their bit 7 is 0, with no
output; a data byte with bit 7 = 1 is taken as a marker of its own bits 6..1. -/
def Obligations.LostMarkerLosesItsFrame : Prop :=
  (∀ (s : State) (d1 d2 : Byte), s.st = .hunting → d1.getLsbD 7 = false → d2.getLsbD 7 = false →
    runEvents [.byte d1, .byte d2] s = .next s) ∧
  (∀ (s : State) (d1 e1 e2 : Byte), s.atLaunch → d1.getLsbD 7 = true →
    runEvents [.byte d1, .byte e1, .byte e2, .take] s =
      .next { s with sent := s.sent ++ [.record (d1.extractLsb' 1 6) (e1.extractLsb' 1 4 ++ e2.extractLsb' 1 6)] })

/-- Corruption of bits (R93, derived by the spec): two frames give the same state, so the same record, exactly when
they agree in bits 6..1 of the marker, bits 4..1 of the msb byte and bits 6..1 of the lsb byte: a corrupted ignored bit
changes nothing, a corrupted field bit changes the record, and either way the frame runs to its end. -/
def Obligations.OnlyFieldBitsReachTheRecord : Prop :=
  ∀ (s : State) (m m' d d' l l' : Byte), s.st = .hunting → m.getLsbD 7 = true → m'.getLsbD 7 = true →
    ∃ t t', runEvents [.byte m, .byte d, .byte l] s = .next t ∧ runEvents [.byte m', .byte d', .byte l'] s = .next t' ∧
      (t = t' ↔
        m.extractLsb' 1 6 = m'.extractLsb' 1 6 ∧ d.extractLsb' 1 4 = d'.extractLsb' 1 4 ∧
        l.extractLsb' 1 6 = l'.extractLsb' 1 6)

/-- After EMIT the block stands exactly in the launch registers (R90, decision D25 of the spec): nothing passes from one frame to the next. -/
def Obligations.FrameBoundaryIsLaunchState : Prop :=
  ∀ s t : State, s.defined = true → exec .emit s = .next t → t.atLaunch

/-! ## Records, bytes and the environment -/

/-- One record a TAKE, moved whole, offered from the TAKE_LSB that formed it until the TAKE that takes it (R30). That in
COMPLETE no event but TAKE and RESET has a step rests on the spec's decisions D4 (no BYTE there), D5 (no EOS there) and
D7 (RESET everywhere), log entry 15. -/
def Obligations.PendingRecordIsHeldUntilTaken : Prop :=
  (∀ s t : State, applyEvent .take s = .next t →
    ∃ c v, s.outValid = true ∧ s.recCh = some c ∧ s.recVal = some v ∧ t.sent = s.sent ++ [.record c v] ∧
      t.outValid = false) ∧
  (∀ (i : Instr) (s t : State), exec i s = .next t → s.outValid = false → t.outValid = true → ∃ b, i = .takeLsb b) ∧
  (∀ (e : Event) (s t : State), s.outValid = true → applyEvent e s = .next t → e = .take ∨ e = .reset)

/-- A record is handed out in the TAKE event only, once, and is gone from the block after it; a frame whose third byte
has not arrived is not handed out, whatever event comes (R35). That a TAKE in GOT_CHANNEL and GOT_MSB has no step is
R50's, with the spec's decisions D4 to D6 (log entry 15), and its form, the refusal by name, is the model's, log entry
4. -/
def Obligations.RecordsLeaveByTakeOnly : Prop :=
  (∀ s t : State, applyEvent .take s = .next t →
    ∃ c v, s.recCh = some c ∧ s.recVal = some v ∧ t.sent = s.sent ++ [.record c v] ∧
      t.recCh = none ∧ t.recVal = none) ∧
  (∀ (e : Event) (s t : State), e ≠ .take → applyEvent e s = .next t →
    (t.sent.filter fun o => o ≠ .eos) = s.sent.filter fun o => o ≠ .eos) ∧
  (∀ s : State, s.st = .gotChannel ∨ s.st = .gotMsb → applyEvent .take s = .refused (.notEnabled s.st))

/-- The outputs of a run are added in order and never taken back, one record for each TAKE, and they are a function of
the registers and the events alone, whatever was sent or is pending (R36, derived by the spec). -/
def Obligations.OutputsAreAFunctionOfEvents : Prop :=
  ∀ (es : List Event) (s t : State), runEvents es s = .next t →
    ∃ more : List Output,
      t.sent = s.sent ++ more ∧
      (more.filter fun o => o ≠ .eos).length = es.count .take ∧
      more.count .eos = es.count .eos ∧
      ∀ s' : State, s.sameRegisters s' →
        ∃ t', runEvents es s' = .next t' ∧ t.sameRegisters t' ∧ t'.sent = s'.sent ++ more

/-- A byte is consumed exactly when a BYTE event occurs, in a reading state only (R29, derived by the spec): the step of a
BYTE word takes that one word off the environment's list; in COMPLETE and EOS_STOP there is no step; at the ports a BYTE
event occurs only with `in_ready` and `in_valid`, no reset and no end-of-stream, and it is the byte offered (the spec's
decisions D8, D9). That the absence of a step shows as a refusal by name is the model's choice, log entry 4. -/
def Obligations.BytesAreConsumedInReadingStatesOnly : Prop :=
  (∀ (s t : State) (w : EventWord) (rest : List EventWord), s.pending = w :: rest → step s = .next t →
    t.pending = rest) ∧
  (∀ (s t : State) (b : Byte), applyEvent (.byte b) s = .next t →
    s.st = .hunting ∨ s.st = .gotChannel ∨ s.st = .gotMsb) ∧
  (∀ (s : State) (b : Byte) (rest : List EventWord), s.st = .complete ∨ s.st = .eosStop →
    step { s with pending := (0b00#2 ++ b) :: rest } = .refused (.notEnabled s.st)) ∧
  (∀ (p : PortsIn) (s : State) (b : Byte), selectEvent p s = some (.byte b) ↔
    s.inReady = true ∧ p.inValid = true ∧ p.rst = false ∧ p.inEos = false ∧ b = p.inData)

/-- A wait keeps every register for any length of time (R64, R71, R94; decision D26 of the spec): with nothing offered
any number of steps leaves the state as it is (an idle step is the model's choice, log entry 3); at the ports, edges
with nothing offered hold a reading state, edges without a ready consumer hold a pending record. -/
def Obligations.WaitingKeepsTheState : Prop :=
  (∀ (s : State) (k : Nat), s.pending = [] → Host.Core.run Sys2Proof.core k s = .next s) ∧
  (∀ (s : State) (ps : List PortsIn), s.inReady = true →
    (∀ p ∈ ps, p.rst = false ∧ p.inValid = false ∧ p.inEos = false) → runEdges ps s = .next s) ∧
  (∀ (s : State) (ps : List PortsIn), s.outValid = true →
    (∀ p ∈ ps, p.rst = false ∧ p.outReady = false) → runEdges ps s = .next s)

/-- EOS_STOP is left only by RESET (R83, the spec's decision D6): no other event has a step there, no sequence of clock
edges without `rst` changes anything, and RESET gives the launch registers. That the absence of a step shows as a refusal
by name is the model's choice, log entry 4. -/
def Obligations.EosStopIsLeftByResetOnly : Prop :=
  (∀ (i : Instr) (s t : State), s.st = .eosStop → exec i s = .next t → i = .reset ∧ t.atLaunch) ∧
  (∀ (e : Event) (s : State), s.st = .eosStop → e ≠ .reset → applyEvent e s = .refused (.notEnabled .eosStop)) ∧
  (∀ (s : State) (ps : List PortsIn), s.st = .eosStop → (∀ p ∈ ps, p.rst = false) → runEdges ps s = .next s)

/-! ## Ports -/

/-- The priority at one clock edge (R40, R81; the spec's decisions D8, D9): RESET over EOS over BYTE over TAKE. -/
def Obligations.PortEventPriority : Prop :=
  (∀ (p : PortsIn) (s : State), p.rst = true → selectEvent p s = some .reset) ∧
  (∀ (p : PortsIn) (s : State), p.rst = false → s.inReady = true → p.inEos = true → selectEvent p s = some .eos) ∧
  (∀ (p : PortsIn) (s : State), p.rst = false → s.inReady = true → p.inEos = false → p.inValid = true →
    selectEvent p s = some (.byte p.inData)) ∧
  (∀ (p : PortsIn) (s : State), p.rst = false → s.outValid = true → p.outReady = true →
    selectEvent p s = some .take) ∧
  (∀ (p : PortsIn) (s : State), p.rst = false → (s.inReady = true → p.inEos = false ∧ p.inValid = false) →
    (s.outValid = true → p.outReady = false) → selectEvent p s = none ∧ edge p s = .next s)

/-- The outputs are a function of the registers alone (R41, the spec's decision D9): states that agree in their
registers show the same ports, and the same edge takes them to states that show the same ports again. Outside COMPLETE
the equality of `out_channel` and `out_value` is the model's choice, log entry 8: its ports show the registers' contents,
no value, where hardware shows any value. -/
def Obligations.OutputPortsAreMoore : Prop :=
  (∀ s s' : State, s.sameRegisters s' → s.ports = s'.ports) ∧
  (∀ (p : PortsIn) (s s' t : State), s.sameRegisters s' → edge p s = .next t →
    ∃ t', edge p s' = .next t' ∧ t.ports = t'.ports)

/-- Refinement (R42, derived by the spec): a cycle-level trace with its empty edges dropped is a run of the event model
that ends alike, each of its events enabled; and every run of the event model is realised by some input to the ports.
The same of infinite ones, by their initial parts (log entry 17): a longer part of a trace only adds events, and an
infinite run is realised by an infinite trace. -/
def Obligations.CycleTraceRefinesEventRun : Prop :=
  (∀ (ps : List PortsIn) (s : State), runEdges ps s = runEvents (projectEdges ps s) s) ∧
  (∀ (p : PortsIn) (s : State) (e : Event), selectEvent p s = some e → (select s.st e).isSome = true) ∧
  (∀ (es : List Event) (s t : State), runEvents es s = .next t →
    ∃ ps : List PortsIn, projectEdges ps s = es ∧ runEdges ps s = .next t) ∧
  (∀ (ps more : List PortsIn) (s t : State), runEdges ps s = .next t →
    projectEdges (ps ++ more) s = projectEdges ps s ++ projectEdges more t) ∧
  (∀ (ev : Nat → Event) (s : State), (Trace.infinite ev).isRunFrom s →
    ∃ p : Nat → PortsIn, ∀ n,
      projectEdges ((Trace.infinite p).first n) s = (Trace.infinite ev).first n ∧
      runEdges ((Trace.infinite p).first n) s = runEvents ((Trace.infinite ev).first n) s)

/-! ## Steps, programs and the host's words -/

/-- A step takes the environment's next word and performs the operation it decodes to, on the state with that word taken
off the list; a word that decodes to none is refused under its reason (a pair that is not enabled: the model's choice,
log entry 4). With nothing pending the step is idle (the model's choice, log entry 3). -/
def Obligations.StepRunsTheDecodedOperation : Prop :=
  (∀ (s : State) (w : EventWord) (rest : List EventWord) (i : Instr), s.pending = w :: rest →
    decode s.st w = .ok i → step s = exec i { s with pending := rest }) ∧
  (∀ (s : State) (w : EventWord) (rest : List EventWord) (st : Ctrl), s.pending = w :: rest →
    decode s.st w = .error (.notEnabled st) → step s = .refused (.notEnabled st)) ∧
  (∀ (s : State) (w w' : EventWord) (rest : List EventWord), s.pending = w :: rest →
    decode s.st w = .error (.notAnEvent w') → step s = .refused (.notAnEvent w')) ∧
  (∀ s : State, s.pending = [] → step s = .next s)

/-- Runs and steps (R11, R54). A run of events is that many steps with their words lined up. A finite or infinite
sequence of events is a run exactly where some sequence of states leads from one event to the next by the step function,
and each of these is a step of the machine, the event's word being offered when nothing else is pending (the lists
`pending` and the initial parts of an infinite run are the model's form, log entries 1 and 17). -/
def Obligations.StepsRunTheLinedUpEvents : Prop :=
  (∀ (es : List Event) (s t : State) (rest : List EventWord), runEvents es s = .next t →
    Host.Core.run Sys2Proof.core es.length { s with pending := es.map Event.toWord ++ rest } =
      .next { t with pending := rest }) ∧
  (∀ (r : Trace Event) (s : State), r.isRunFrom s ↔
    ∃ states : Nat → State, states 0 = s ∧
      ∀ n e, r.item n = some e → applyEvent e (states n) = .next (states (n + 1))) ∧
  (∀ (e : Event) (s : State), s.pending = [] → step (s.offer [e.toWord]) = applyEvent e s)

/-- The runner runs a program whose events are all enabled to its end, and reports the first one that is not, with the
state before it, running nothing after it (R61, the spec's decision D20; the refusal's name is the model's choice, log
entry 4). -/
def Obligations.RunnerReportsNotEnabledEvent : Prop :=
  (∀ (es : List Event) (s t : State), runEvents es s = .next t →
    runner (es.map Event.toWord) s = { ran := es.length, final := t, stop := .finished }) ∧
  (∀ (es : List Event) (e : Event) (rest : List EventWord) (s t : State), runEvents es s = .next t →
    select t.st e = none →
    runner (es.map Event.toWord ++ e.toWord :: rest) s =
      { ran := es.length, final := t, stop := .refused (.notEnabled t.st) })

/-- The pseudo-instructions (R60, the spec's decision D20): `BYTES` is its bytes one by one, `FRAME ch, val` is the
reference encoder's three, refused above 63 or 1023. -/
def Obligations.PseudoInstructionsExpand : Prop :=
  (∀ (b : Byte) (bs : List Byte), (Line.bytes (b :: bs)).expand = some ((b :: bs).map .byte)) ∧
  (∀ ch val : Nat, ch ≤ 63 → val ≤ 1023 →
    (Line.frame ch val).expand = some ((encodeFrame (BitVec.ofNat 6 ch) (BitVec.ofNat 10 val)).map .byte)) ∧
  (∀ ch val : Nat, 63 < ch ∨ 1023 < val → (Line.frame ch val).expand = none)

/-- A test program's text assembles to its event words in line order (R59, the spec's decision D20; white space and digit
case are the model's choice, log entry 11; so is what a `dec` is, log entry 16): a text of the spec's programs, and lines that are no line of the syntax. -/
def Obligations.ProgramTextAssembles : Prop :=
  assembleText "RESET\nBYTES 0x84 0x06       ; first two bytes of FRAME 2, 200\nEOS\nRESET\nFRAME 7, 7\nTAKE\n".toList =
    some [0x300#10, 0x084#10, 0x006#10, 0x100#10, 0x300#10, 0x08E#10, 0x000#10, 0x00F#10, 0x200#10] ∧
  assembleText "FRAME 64, 0".toList = none ∧ assembleText "FRAME 0, 1024".toList = none ∧
  assembleText "BYTES".toList = none ∧ assembleText "BYTE 0x1".toList = none

/-- The host's word runs the operation the table decoder reads from it, on the state the host's seat gives, which is the
state itself where that operation stands in its controller state; a number the table decoder reads nothing from is
refused (the model's choice, log entries 9 and 10). -/
def Obligations.FetchWordRunsTableOperation : Prop :=
  (∀ (s : State) (nbits w : Nat) (i : Instr), decodeTableWord nbits w = some i →
    step (s.withFetchWord nbits w) = exec i { seatFor i s with pending := s.pending } ∧
    (i.standsIn s.st = true → seatFor i s = s)) ∧
  (∀ (s : State) (nbits w : Nat), decodeTableWord nbits w = none → ∃ r, step (s.withFetchWord nbits w) = .refused r)
end

