-- ==== Sys2Proof/Laws/Decode.lean ====
section
/-! SUPPORT. Small lemmas of the decoder's parts. -/

namespace Sys2Proof

/-- The marker mask tests bit 7. -/
theorem isMarker_eq_bit7 (b : Byte) : isMarker b = b.getLsbD 7 := by
  revert b
  decide

theorem kindOf_append (k : BitVec 2) (b : Byte) : kindOf (k ++ b) = k := by
  apply BitVec.eq_of_getLsbD_eq
  intro i hi
  have h := BitVec.getLsbD_append (x := k) (y := b) (i := 8 + i)
  rw [kindOf, BitVec.getLsbD_extractLsb']
  simp only [hi, decide_true, Bool.true_and]
  exact h.trans (by simp)

theorem dataOf_append (k : BitVec 2) (b : Byte) : dataOf (k ++ b) = b := by
  apply BitVec.eq_of_getLsbD_eq
  intro i hi
  have h := BitVec.getLsbD_append (x := k) (y := b) (i := 0 + i)
  rw [dataOf, BitVec.getLsbD_extractLsb']
  simp only [hi, decide_true, Bool.true_and]
  exact h.trans (by simp [hi])

/-- A BYTE word always encodes its byte. -/
theorem Event.ofWord_byte (b : Byte) : Event.ofWord (0b00#2 ++ b) = .ok (.byte b) := by
  simp [Event.ofWord, kindOf_append, dataOf_append]

end Sys2Proof
end

