-- ==== Sys2Proof/Laws/State.lean ====
section
/-! SUPPORT. One lemma per field per update of State, and the fields the two whole-register operations leave. -/

namespace Sys2Proof.Machine

variable (s : State)

@[simp] theorem State.goTo_st (c : Ctrl) : (s.goTo c).st = c := rfl
@[simp] theorem State.goTo_chan (c : Ctrl) : (s.goTo c).chan = s.chan := rfl
@[simp] theorem State.goTo_vhi (c : Ctrl) : (s.goTo c).vhi = s.vhi := rfl
@[simp] theorem State.goTo_recCh (c : Ctrl) : (s.goTo c).recCh = s.recCh := rfl
@[simp] theorem State.goTo_recVal (c : Ctrl) : (s.goTo c).recVal = s.recVal := rfl
@[simp] theorem State.goTo_pending (c : Ctrl) : (s.goTo c).pending = s.pending := rfl
@[simp] theorem State.goTo_sent (c : Ctrl) : (s.goTo c).sent = s.sent := rfl

@[simp] theorem State.putChan_st (v : Option Channel) : (s.putChan v).st = s.st := rfl
@[simp] theorem State.putChan_chan (v : Option Channel) : (s.putChan v).chan = v := rfl
@[simp] theorem State.putChan_vhi (v : Option Channel) : (s.putChan v).vhi = s.vhi := rfl
@[simp] theorem State.putChan_recCh (v : Option Channel) : (s.putChan v).recCh = s.recCh := rfl
@[simp] theorem State.putChan_recVal (v : Option Channel) : (s.putChan v).recVal = s.recVal := rfl
@[simp] theorem State.putChan_pending (v : Option Channel) : (s.putChan v).pending = s.pending := rfl
@[simp] theorem State.putChan_sent (v : Option Channel) : (s.putChan v).sent = s.sent := rfl

@[simp] theorem State.putVhi_st (v : Option HighField) : (s.putVhi v).st = s.st := rfl
@[simp] theorem State.putVhi_chan (v : Option HighField) : (s.putVhi v).chan = s.chan := rfl
@[simp] theorem State.putVhi_vhi (v : Option HighField) : (s.putVhi v).vhi = v := rfl
@[simp] theorem State.putVhi_recCh (v : Option HighField) : (s.putVhi v).recCh = s.recCh := rfl
@[simp] theorem State.putVhi_recVal (v : Option HighField) : (s.putVhi v).recVal = s.recVal := rfl
@[simp] theorem State.putVhi_pending (v : Option HighField) : (s.putVhi v).pending = s.pending := rfl
@[simp] theorem State.putVhi_sent (v : Option HighField) : (s.putVhi v).sent = s.sent := rfl

@[simp] theorem State.putRec_st (c : Option Channel) (v : Option Value) : (s.putRec c v).st = s.st := rfl
@[simp] theorem State.putRec_chan (c : Option Channel) (v : Option Value) : (s.putRec c v).chan = s.chan := rfl
@[simp] theorem State.putRec_vhi (c : Option Channel) (v : Option Value) : (s.putRec c v).vhi = s.vhi := rfl
@[simp] theorem State.putRec_recCh (c : Option Channel) (v : Option Value) : (s.putRec c v).recCh = c := rfl
@[simp] theorem State.putRec_recVal (c : Option Channel) (v : Option Value) : (s.putRec c v).recVal = v := rfl
@[simp] theorem State.putRec_pending (c : Option Channel) (v : Option Value) : (s.putRec c v).pending = s.pending := rfl
@[simp] theorem State.putRec_sent (c : Option Channel) (v : Option Value) : (s.putRec c v).sent = s.sent := rfl

@[simp] theorem State.send_st (o : Output) : (s.send o).st = s.st := rfl
@[simp] theorem State.send_chan (o : Output) : (s.send o).chan = s.chan := rfl
@[simp] theorem State.send_vhi (o : Output) : (s.send o).vhi = s.vhi := rfl
@[simp] theorem State.send_recCh (o : Output) : (s.send o).recCh = s.recCh := rfl
@[simp] theorem State.send_recVal (o : Output) : (s.send o).recVal = s.recVal := rfl
@[simp] theorem State.send_pending (o : Output) : (s.send o).pending = s.pending := rfl
@[simp] theorem State.send_sent (o : Output) : (s.send o).sent = s.sent ++ [o] := rfl

@[simp] theorem State.offer_st (ws : List EventWord) : (s.offer ws).st = s.st := rfl
@[simp] theorem State.offer_chan (ws : List EventWord) : (s.offer ws).chan = s.chan := rfl
@[simp] theorem State.offer_vhi (ws : List EventWord) : (s.offer ws).vhi = s.vhi := rfl
@[simp] theorem State.offer_recCh (ws : List EventWord) : (s.offer ws).recCh = s.recCh := rfl
@[simp] theorem State.offer_recVal (ws : List EventWord) : (s.offer ws).recVal = s.recVal := rfl
@[simp] theorem State.offer_pending (ws : List EventWord) : (s.offer ws).pending = s.pending ++ ws := rfl
@[simp] theorem State.offer_sent (ws : List EventWord) : (s.offer ws).sent = s.sent := rfl

@[simp] theorem raiseEndOfStream_st : (raiseEndOfStream s).st = .eosStop := rfl
@[simp] theorem raiseEndOfStream_chan : (raiseEndOfStream s).chan = none := rfl
@[simp] theorem raiseEndOfStream_vhi : (raiseEndOfStream s).vhi = none := rfl
@[simp] theorem raiseEndOfStream_recCh : (raiseEndOfStream s).recCh = s.recCh := rfl
@[simp] theorem raiseEndOfStream_recVal : (raiseEndOfStream s).recVal = s.recVal := rfl
@[simp] theorem raiseEndOfStream_pending : (raiseEndOfStream s).pending = s.pending := rfl
@[simp] theorem raiseEndOfStream_sent : (raiseEndOfStream s).sent = s.sent ++ [.eos] := rfl

@[simp] theorem resetRegisters_st : (resetRegisters s).st = .hunting := rfl
@[simp] theorem resetRegisters_chan : (resetRegisters s).chan = none := rfl
@[simp] theorem resetRegisters_vhi : (resetRegisters s).vhi = none := rfl
@[simp] theorem resetRegisters_recCh : (resetRegisters s).recCh = none := rfl
@[simp] theorem resetRegisters_recVal : (resetRegisters s).recVal = none := rfl
@[simp] theorem resetRegisters_pending : (resetRegisters s).pending = s.pending := rfl
@[simp] theorem resetRegisters_sent : (resetRegisters s).sent = s.sent := rfl

end Sys2Proof.Machine
end

