-- ==== Sys2Proof/Laws/Ops.lean ====
section
/-! SUPPORT. One lemma per shared operation that says everything it can do, and one inversion lemma per meaning: what
must have held, and what the next state is, when it answers one. -/

namespace Sys2Proof.Machine

/-- A read goes on only with a register that holds a value. -/
theorem readReg_next {n : Nat} {r : Reg} {v : Option (BitVec n)} {k : BitVec n → Host.Outcome State Fault Refusal}
    {t : State} (h : readReg r v k = .next t) : ∃ x, v = some x ∧ k x = .next t := by
  cases v with
  | none => cases h
  | some x => exact ⟨x, rfl, h⟩

/-- A read of a register that holds a value hands it on. -/
@[simp] theorem readReg_some {n : Nat} (r : Reg) (x : BitVec n) (k : BitVec n → Host.Outcome State Fault Refusal) :
    readReg r (some x) k = k x := rfl

/-- A read of ⊥ faults under the register's name. -/
@[simp] theorem readReg_none {n : Nat} (r : Reg) (k : BitVec n → Host.Outcome State Fault Refusal) :
    readReg r none k = .fault (.noValue r) := rfl

/-- The precondition check answers a next state only where the precondition holds. -/
theorem whenEnabled_next {pre : Bool} {s : State} {o : Host.Outcome State Fault Refusal} {t : State}
    (h : whenEnabled pre s o = .next t) : pre = true ∧ o = .next t := by
  cases pre with
  | false => cases h
  | true => exact ⟨rfl, h⟩

@[simp] theorem whenEnabled_true (s : State) (o : Host.Outcome State Fault Refusal) : whenEnabled true s o = o := rfl

@[simp] theorem whenEnabled_false (s : State) (o : Host.Outcome State Fault Refusal) :
    whenEnabled false s o = .refused (.notEnabled s.st) := rfl

theorem fetch_nil {s : State} (h : s.pending = []) : fetch s = none := by
  simp [fetch, h]

theorem fetch_cons {s : State} {w : EventWord} {rest : List EventWord} (h : s.pending = w :: rest) :
    fetch s = some (w, { s with pending := rest }) := by
  simp [fetch, h]

/-- Going where one already is changes nothing. -/
theorem State.goTo_self {s : State} {c : Ctrl} (h : s.st = c) : s.goTo c = s := by
  subst h
  rfl

theorem execHuntSkip_next {b : Byte} {s t : State} (h : execHuntSkip b s = .next t) :
    s.st = .hunting ∧ isMarker b = false ∧ t = s := by
  obtain ⟨hp, ht⟩ := whenEnabled_next h
  simp only [Bool.and_eq_true, beq_iff_eq, Bool.not_eq_true'] at hp
  cases ht
  exact ⟨hp.1, hp.2, State.goTo_self hp.1⟩

theorem execHuntMark_next {b : Byte} {s t : State} (h : execHuntMark b s = .next t) :
    s.st = .hunting ∧ isMarker b = true ∧ t = { s with chan := some (channelOf b), st := .gotChannel } := by
  obtain ⟨hp, ht⟩ := whenEnabled_next h
  simp only [Bool.and_eq_true, beq_iff_eq] at hp
  cases ht
  exact ⟨hp.1, hp.2, rfl⟩

theorem execTakeMsb_next {b : Byte} {s t : State} (h : execTakeMsb b s = .next t) :
    s.st = .gotChannel ∧ t = { s with vhi := some (highFieldOf b), st := .gotMsb } := by
  obtain ⟨hp, ht⟩ := whenEnabled_next h
  cases ht
  exact ⟨by simpa using hp, rfl⟩

theorem execTakeLsb_next {b : Byte} {s t : State} (h : execTakeLsb b s = .next t) :
    s.st = .gotMsb ∧ ∃ c hi, s.chan = some c ∧ s.vhi = some hi ∧
      t = { s with recCh := some c, recVal := some (valueOf hi (lowFieldOf b)), chan := none, vhi := none,
                   st := .complete } := by
  obtain ⟨hp, hk⟩ := whenEnabled_next h
  obtain ⟨c, hc, hk⟩ := readReg_next hk
  obtain ⟨hi, hv, hk⟩ := readReg_next hk
  cases hk
  exact ⟨by simpa using hp, c, hi, hc, hv, rfl⟩

theorem execEmit_next {s t : State} (h : execEmit s = .next t) :
    s.st = .complete ∧ ∃ c v, s.recCh = some c ∧ s.recVal = some v ∧
      t = { s with recCh := none, recVal := none, sent := s.sent ++ [.record c v], st := .hunting } := by
  obtain ⟨hp, hk⟩ := whenEnabled_next h
  obtain ⟨c, hc, hk⟩ := readReg_next hk
  obtain ⟨v, hv, hk⟩ := readReg_next hk
  cases hk
  exact ⟨by simpa using hp, c, v, hc, hv, rfl⟩

theorem execEos_next {s t : State} (h : execEos s = .next t) :
    s.st.reading = true ∧
      t = { s with chan := none, vhi := none, sent := s.sent ++ [.eos], st := .eosStop } := by
  obtain ⟨hp, ht⟩ := whenEnabled_next h
  cases ht
  exact ⟨hp, rfl⟩

theorem execReset_next {s t : State} (h : execReset s = .next t) :
    t = { s with st := .hunting, chan := none, vhi := none, recCh := none, recVal := none } := by
  cases h
  rfl

end Sys2Proof.Machine
end

