-- ==== Sys2Proof/Laws/PerInstr.lean ====
section
/-! SUPPORT. Per-instruction family over Instr as syntax. EncodesItsEvent: the word of an operation reads back as the
event that causes it, so no bit of the encoding is dropped or moved. -/

namespace Sys2Proof.Laws.EncodesItsEvent

open Sys2Proof

def Statement (i : Instr) : Prop := Event.ofWord (encode i) = .ok i.event

theorem huntSkip (b : Byte) : Statement (.huntSkip b) := Event.ofWord_byte b

theorem huntMark (b : Byte) : Statement (.huntMark b) := Event.ofWord_byte b

theorem takeMsb (b : Byte) : Statement (.takeMsb b) := Event.ofWord_byte b

theorem takeLsb (b : Byte) : Statement (.takeLsb b) := Event.ofWord_byte b

theorem emit : Statement .emit := rfl

theorem eos : Statement .eos := rfl

theorem reset : Statement .reset := rfl

end Sys2Proof.Laws.EncodesItsEvent
end

