-- ==== Sys2Proof/Laws/Run.lean ====
section
/-! SUPPORT. How runs unfold: one event at a time, one step at a time, and the inversions of an event's and an edge-free
word's step. -/

namespace Sys2Proof.Machine

/-- An event that answers a next state selected an operation that did. -/
theorem applyEvent_next {e : Event} {s t : State} (h : applyEvent e s = .next t) :
    ∃ i, select s.st e = some i ∧ exec i s = .next t := by
  unfold applyEvent at h
  cases hs : select s.st e with
  | none => rw [hs] at h; cases h
  | some i => rw [hs] at h; exact ⟨i, rfl, h⟩

/-- A word that answers a next state decoded to an operation that did. -/
theorem performWord_next {w : EventWord} {s t : State} (h : performWord w s = .next t) :
    ∃ i, decode s.st w = .ok i ∧ exec i s = .next t := by
  unfold performWord at h
  cases hd : decode s.st w with
  | error r => rw [hd] at h; cases r <;> cases h
  | ok i => rw [hd] at h; exact ⟨i, rfl, h⟩

theorem runEvents_cons {e : Event} {s t : State} (es : List Event) (h : applyEvent e s = .next t) :
    runEvents (e :: es) s = runEvents es t := by
  simp [runEvents, h]

/-- A run that answers a next state has a first event that does. -/
theorem runEvents_cons_next {e : Event} {es : List Event} {s t : State} (h : runEvents (e :: es) s = .next t) :
    ∃ u, applyEvent e s = .next u ∧ runEvents es u = .next t := by
  unfold runEvents at h
  cases ha : applyEvent e s with
  | next u => rw [ha] at h; exact ⟨u, rfl, h⟩
  | fault f => rw [ha] at h; cases h
  | refused r => rw [ha] at h; cases h

/-- A run goes on from where its first part ends. -/
theorem runEvents_append {es : List Event} {s t : State} (es' : List Event) (h : runEvents es s = .next t) :
    runEvents (es ++ es') s = runEvents es' t := by
  induction es generalizing s with
  | nil => cases h; rfl
  | cons e es ih =>
    obtain ⟨u, ha, hr⟩ := runEvents_cons_next h
    rw [List.cons_append, runEvents_cons _ ha]
    exact ih hr

@[simp] theorem first_zero {α : Type} (r : Trace α) : r.first 0 = [] := by
  cases r <;> rfl

/-- One more item of a sequence that has it. -/
theorem first_succ_of_item {α : Type} {r : Trace α} {n : Nat} {a : α} (h : r.item n = some a) :
    r.first (n + 1) = r.first n ++ [a] := by
  cases r with
  | finite xs => simp only [Trace.item] at h; simp only [Trace.first, List.take_add_one, h, Option.toList]
  | infinite x => cases h; simp only [Trace.first, List.range_succ, List.map_append, List.map_cons, List.map_nil]

/-- Past the end of a finite sequence nothing is added, and nothing comes after. -/
theorem first_succ_of_no_item {α : Type} {r : Trace α} {n : Nat} (h : r.item n = none) :
    r.first (n + 1) = r.first n ∧ r.item (n + 1) = none := by
  cases r with
  | finite xs =>
    simp only [Trace.item] at h
    refine ⟨by simp only [Trace.first, List.take_add_one, h, Option.toList, List.append_nil], ?_⟩
    simp only [Trace.item, List.getElem?_eq_none_iff] at h ⊢
    omega
  | infinite x => cases h

/-- The initial part of an infinite sequence given item by item. -/
theorem first_map {α β : Type} (f : α → β) (x : Nat → α) (n : Nat) :
    (Trace.infinite fun k => f (x k)).first n = ((Trace.infinite x).first n).map f := by
  simp only [Trace.first, List.map_map, Function.comp_def]

theorem core_run_zero (s : State) : Host.Core.run Sys2Proof.core 0 s = .next s := rfl

/-- One more step of the host's run. -/
theorem core_run_succ {s t : State} (k : Nat) (h : step s = .next t) :
    Host.Core.run Sys2Proof.core (k + 1) s = Host.Core.run Sys2Proof.core k t := by
  have hs : Sys2Proof.core.step s = .next t := h
  have hr := Host.Core.run.eq_2 Sys2Proof.core s k
  rw [hs] at hr
  exact hr

end Sys2Proof.Machine
end

