-- ==== Sys2Proof/Tests/Slice0.lean ====
section
/-! SUPPORT. The model's own tests. Expected results are from spec/95_test_vectors.md (the vector is named in each
comment) or from the rule named; a witness theorem shows a concrete input that meets a statement's hypotheses. -/

namespace Sys2Proof.Tests

open Sys2Proof Sys2Proof.Machine

/-- A block with nothing pending and nothing sent. -/
def block (st : Ctrl) (ch : Option Channel) (hi : Option HighField) (rc : Option Channel) (rv : Option Value) : State :=
  { st := st, chan := ch, vhi := hi, recCh := rc, recVal := rv, pending := [], sent := [] }

def nextOf : Host.Outcome State Fault Refusal → Option State
  | .next s => some s
  | .fault _ => none
  | .refused _ => none

def refusalOf : Host.Outcome State Fault Refusal → Option Refusal
  | .next _ => none
  | .fault _ => none
  | .refused r => some r

def faultOf : Host.Outcome State Fault Refusal → Option Fault
  | .next _ => none
  | .fault f => some f
  | .refused _ => none

def hunting : State := block .hunting none none none none
def gotChannel5 : State := block .gotChannel (some 5#6) none none none
def gotMsb55 : State := block .gotMsb (some 5#6) (some 5#4) none none
def complete5 : State := block .complete none none (some 5#6) (some 341#10)
def stopped : State := block .eosStop none none none none

/-! ## WellFormed: an ill-formed term for each check (R49, column "condition on b") -/

theorem test_huntSkip_of_marker_is_ill_formed : (Instr.huntSkip 0x80#8).wellFormed = false := by decide
theorem test_huntMark_of_junk_is_ill_formed : (Instr.huntMark 0x7F#8).wellFormed = false := by decide

/-! ## Decode: words written out from the rules' "Encoding" lines, and the words R52 refuses -/

theorem test_decode_HUNT_SKIP : decode .hunting 0b0001010101#10 = .ok (.huntSkip 0x55#8) := by rfl
theorem test_decode_HUNT_MARK : decode .hunting 0b0011000001#10 = .ok (.huntMark 0xC1#8) := by rfl
theorem test_decode_TAKE_MSB : decode .gotChannel 0b0010010100#10 = .ok (.takeMsb 0x94#8) := by rfl
theorem test_decode_TAKE_LSB : decode .gotMsb 0b0010101011#10 = .ok (.takeLsb 0xAB#8) := by rfl
theorem test_decode_EMIT : decode .complete 0b1000000000#10 = .ok .emit := by rfl
theorem test_decode_EOS : decode .gotChannel 0b0100000000#10 = .ok .eos := by rfl
theorem test_decode_RESET : decode .eosStop 0b1100000000#10 = .ok .reset := by rfl
/-- L2.EVW.8 and L2.EVW.9. -/
theorem test_decode_refuses_data_bits :
    decode .complete 0x2FF#10 = .error (.notAnEvent 0x2FF#10) ∧
    decode .hunting 0x380#10 = .error (.notAnEvent 0x380#10) := ⟨rfl, rfl⟩
theorem test_table_words :
    [0x000, 0x080, 0x200, 0x100, 0x300].map (decodeTableWord 16) =
      [some (.huntSkip 0x00#8), some (.huntMark 0x80#8), some .emit, some .eos, some .reset] := by decide
theorem test_table_word_over_ten_bits : decodeTableWord 16 0x0400 = none := by decide

/-! ## Operations: one step each -/

/-- L2.SYNC.3. -/
theorem test_huntSkip_0x7F : nextOf (exec (.huntSkip 0x7F#8) hunting) = some hunting := by decide
/-- L2.SYNC.12: 0x9B gives channel 13. -/
theorem test_huntMark_0x9B :
    nextOf (exec (.huntMark 0x9B#8) hunting) = some (block .gotChannel (some 13#6) none none none) := by decide
/-- L2.TAKE_MSB.12: a marker-shaped byte is data. -/
theorem test_takeMsb_0x94 :
    nextOf (exec (.takeMsb 0x94#8) gotChannel5) = some (block .gotMsb (some 5#6) (some 10#4) none none) := by decide
/-- L2.TAKE_MSB.x: 0x0E gives vhi 7 (90_conflicts.md C2). -/
theorem test_takeMsb_0x0E :
    nextOf (exec (.takeMsb 0x0E#8) gotChannel5) = some (block .gotMsb (some 5#6) (some 7#4) none none) := by decide
/-- L2.TAKE_LSB.11. -/
theorem test_takeLsb_0x02 :
    nextOf (exec (.takeLsb 0x02#8) (block .gotMsb (some 32#6) (some 8#4) none none)) =
      some (block .complete none none (some 32#6) (some 513#10)) := by decide
/-- L2.TAKE_LSB.7: a marker-shaped byte is data. -/
theorem test_takeLsb_0x80 :
    nextOf (exec (.takeLsb 0x80#8) (block .gotMsb (some 0#6) (some 15#4) none none)) =
      some (block .complete none none (some 0#6) (some 960#10)) := by decide
/-- L2.EMIT.1. -/
theorem test_emit : nextOf (exec .emit complete5) = some { hunting with sent := [.record 5#6 341#10] } := by decide
/-- L2.NE.7: TAKE in HUNTING is not enabled. -/
theorem test_emit_not_enabled : refusalOf (exec .emit hunting) = some (.notEnabled .hunting) := by decide
/-- L2.EOS.3: the partial frame is discarded. -/
theorem test_eos_mid_frame : nextOf (exec .eos gotMsb55) = some { stopped with sent := [.eos] } := by decide
/-- L2.NE.3: EOS while a record is pending is not enabled. -/
theorem test_eos_not_enabled : refusalOf (exec .eos complete5) = some (.notEnabled .complete) := by decide
/-- L2.RESET.4: the pending record is lost unemitted. -/
theorem test_reset_drops_record : nextOf (exec .reset complete5) = some hunting := by decide
/-- L2.NE.1: a byte offered while a record is pending is not consumed. -/
theorem test_step_refuses_byte_in_complete :
    refusalOf (step { complete5 with pending := [0x000#10] }) = some (.notEnabled .complete) := by decide

/-! ## Ports: single edges of program P8 -/

/-- Edge 6: a byte waits while a record is pending. -/
theorem test_edge6_holds :
    nextOf (edge { rst := false, inValid := true, inData := 0x82#8, inEos := false, outReady := false } complete5) =
      some complete5 := by decide
/-- Edge 9: EOS wins over an offered byte. -/
theorem test_edge9_eos_wins :
    selectEvent { rst := false, inValid := true, inData := 0x02#8, inEos := true, outReady := false } gotChannel5 =
      some .eos := by decide
/-- Edge 15: RESET wins over a ready consumer. -/
theorem test_edge15_reset_wins :
    nextOf (edge { rst := true, inValid := false, inData := 0x00#8, inEos := false, outReady := true } complete5) =
      some hunting := by decide

/-! ## Constants, encoder and notation -/

/-- R6: N_CH is what CH_W bits number; a frame is a marker and the data bytes. -/
theorem test_parameters : Config.channels = 2 ^ 6 ∧ Config.frameLength = 1 + Config.dataBytes := by decide

/-- L2.ENC.5. -/
theorem test_encode_1_1 : encodeFrame 1#6 1#10 = [0x82#8, 0x00#8, 0x03#8] := by decide
/-- L2.ENC.9. -/
theorem test_frame_refuses_1024 : (Line.frame 0 1024).expand = none := by decide
theorem test_parse_line : parseLine "BYTE 0xaB ; junk".toList = some (.byte 0xAB#8) := by decide

/-! ## Witnesses: concrete inputs that meet the statements' hypotheses, clause by clause -/

theorem witness_EventWordsRoundTrip : Event.ofWord 0x08A#10 = .ok (.byte 0x8A#8) := by rfl
theorem witness_NonZeroDataRefused :
    (0x1FF#10).extractLsb' 8 2 ≠ 0b00#2 ∧ (0x1FF#10).extractLsb' 0 8 ≠ 0x00#8 := by decide
theorem witness_DecodeOfEncode : (Instr.huntMark 0xFF#8).wellFormed = true ∧ (Instr.huntMark 0xFF#8).standsIn .hunting = true := by
  decide
theorem witness_EncodeOfDecode : decode .gotMsb 0x0FF#10 = .ok (.takeLsb 0xFF#8) := by rfl
theorem witness_NotEnabledPairs_byte : complete5.st = .complete ∧ select .complete (.byte 0xFF#8) = none := by decide
theorem witness_NotEnabledPairs_eos : stopped.st = .eosStop ∧ select .eosStop .eos = none := by decide
theorem witness_NotEnabledPairs_take : hunting.st ≠ .complete ∧ select .hunting .take = none := by decide
theorem witness_EventsMoveStAsListed : nextOf (applyEvent .eos gotChannel5) = some { stopped with sent := [.eos] } := by decide
theorem witness_StatusFlags_reset : exec .reset stopped = .next hunting := by rfl
theorem witness_StepKeepsDefined :
    { gotMsb55 with pending := [0x02B#10] }.defined = true ∧
      step { gotMsb55 with pending := [0x02B#10] } = .next complete5 := ⟨rfl, rfl⟩
theorem witness_Reachable : Reachable (block .gotChannel (some 63#6) none none none) :=
  .event State.reset _ (.byte 0xFF#8) .launch rfl
theorem witness_ReadingNoValue_chan : (block .gotMsb none (some 0#4) none none).st = .gotMsb ∧
    (block .gotMsb none (some 0#4) none none).chan = none := by decide
theorem witness_ReadingNoValue_vhi : (block .gotMsb (some 63#6) none none none).chan = some 63#6 ∧
    (block .gotMsb (some 63#6) none none none).vhi = none := by decide
theorem witness_ReadingNoValue_recCh : (block .complete none none none (some 0#10)).st = .complete ∧
    (block .complete none none none (some 0#10)).recCh = none := by decide
theorem witness_ReadingNoValue_recVal : (block .complete none none (some 63#6) none).recCh = some 63#6 ∧
    (block .complete none none (some 63#6) none).recVal = none := by decide
theorem witness_Live_defined : gotMsb55.defined = true := by decide
theorem witness_Live_chan : exec (.huntMark 0x8A#8) hunting = .next gotChannel5 ∧ gotChannel5.chan = some 5#6 ∧
    hunting.chan ≠ some 5#6 := ⟨rfl, rfl, by decide⟩
theorem witness_Live_vhi : exec (.takeMsb 0x0A#8) gotChannel5 = .next gotMsb55 ∧ gotMsb55.vhi = some 5#4 ∧
    gotChannel5.vhi ≠ some 5#4 := ⟨rfl, rfl, by decide⟩
theorem witness_Live_rec : exec (.takeLsb 0x2B#8) gotMsb55 = .next complete5 ∧ complete5.recCh ≠ gotMsb55.recCh := ⟨rfl, by decide⟩
theorem witness_Live_emit : exec .emit complete5 = .next { hunting with sent := [.record 5#6 341#10] } := by rfl
theorem witness_HuntSkip : hunting.st = .hunting ∧ (0x7F#8).getLsbD 7 = false := by decide
theorem witness_HuntMark : hunting.st = .hunting ∧ (0x80#8).getLsbD 7 = true := by decide
theorem witness_HuntMark_channel0 : exec (.huntMark 0x81#8) hunting = .next (block .gotChannel (some 0#6) none none none) := by rfl
theorem witness_HuntMark_channel63 : exec (.huntMark 0xFE#8) hunting = .next (block .gotChannel (some 63#6) none none none) := by rfl
theorem witness_TakeMsb : gotChannel5.st = .gotChannel ∧ gotChannel5.chan ≠ none := by decide
theorem witness_TakeMsb_no_channel : (block .gotChannel none none none none).st = .gotChannel ∧
    (block .gotChannel none none none none).chan = none := by decide
theorem witness_TakeLsb : gotMsb55.st = .gotMsb ∧ gotMsb55.chan = some 5#6 ∧ gotMsb55.vhi = some 5#4 := by decide
theorem witness_Emit : complete5.st = .complete ∧ complete5.recCh = some 5#6 ∧ complete5.recVal = some 341#10 := by decide
theorem witness_Eos : hunting.st = .hunting ∧ gotChannel5.st = .gotChannel ∧ gotMsb55.st = .gotMsb := by decide
theorem witness_Frame : exec .eos gotMsb55 = .next { stopped with sent := [.eos] } := by rfl
theorem witness_OutsideRow : (Instr.takeMsb 0xFF#8).standsIn hunting.st = false ∧ (Instr.huntSkip 0x80#8).wellFormed = false := by
  decide
theorem witness_Value_ignored_bits : 0xE1#8 &&& 0xE1#8 = 0xE1#8 ∧ 0x81#8 &&& 0x81#8 = 0x81#8 := by decide
theorem witness_EveryByte : gotMsb55.defined = true ∧ gotMsb55.st = .gotMsb := by decide
theorem witness_EveryByte_ignored :
    (0x80#8).extractLsb' 1 7 = (0x81#8).extractLsb' 1 7 ∧ (0x1E#8).extractLsb' 1 4 = (0xFF#8).extractLsb' 1 4 ∧
    (0x7E#8).extractLsb' 1 6 = (0xFF#8).extractLsb' 1 6 := by decide
theorem witness_FrameIsThreeBytes :
    (∀ b ∈ [0x00#8, 0x7F#8], b.getLsbD 7 = false) ∧ (0xFF#8).getLsbD 7 = true := by decide
theorem witness_EndlessHunting : hunting.st = .hunting ∧ ∀ k : Nat, ((fun _ => 0x7F#8 : Nat → Byte) k).getLsbD 7 = false :=
  ⟨rfl, fun _ => (by decide : (0x7F#8).getLsbD 7 = false)⟩
theorem witness_atLaunch : hunting.atLaunch := ⟨rfl, rfl, rfl, rfl, rfl⟩
theorem witness_ReadFrame_some : readFrame [0x00#8, 0x8A#8, 0x0A#8, 0x2B#8, 0x82#8] =
    some ({ junk := [0x00#8], marker := 0x8A#8, msb := 0x0A#8, lsb := 0x2B#8 }, [0x82#8]) := by decide
theorem witness_ReadFrame_none : readFrame [0x00#8, 0x84#8, 0x06#8] = none := by decide
theorem witness_Grammar : (Parsed.mk [] [0x00#8] [0x84#8, 0x06#8]).ok = true ∧
    (Parsed.mk [] [0x00#8] [0x84#8, 0x06#8]).bytes = [0x00#8, 0x84#8, 0x06#8] := by decide
theorem witness_LostDataByte : (0x82#8).getLsbD 7 = true ∧ (0x84#8).getLsbD 7 = true ∧ (0x06#8).getLsbD 7 = false ∧
    (0x11#8).getLsbD 7 = false ∧ (0x86#8).getLsbD 7 = true := by decide
theorem witness_LostMarker : (0x12#8).getLsbD 7 = false ∧ (0x31#8).getLsbD 7 = false ∧ (0x92#8).getLsbD 7 = true := by decide
theorem witness_FrameBoundary : complete5.defined = true ∧
    exec .emit complete5 = .next { hunting with sent := [.record 5#6 341#10] } := ⟨rfl, rfl⟩
theorem witness_PendingRecord_take : applyEvent .take complete5 = .next { hunting with sent := [.record 5#6 341#10] } := by rfl
theorem witness_PendingRecord_offered : exec (.takeLsb 0x2B#8) gotMsb55 = .next complete5 ∧
    gotMsb55.outValid = false ∧ complete5.outValid = true := ⟨rfl, rfl, rfl⟩
theorem witness_PendingRecord_held : complete5.outValid = true ∧ applyEvent .reset complete5 = .next hunting := ⟨rfl, rfl⟩
theorem witness_RecordsLeave : applyEvent (.byte 0xFF#8) gotChannel5 = .next (block .gotMsb (some 5#6) (some 15#4) none none) := by rfl
theorem witness_RecordsLeave_take : applyEvent .take (block .complete none none (some 0#6) (some 1023#10)) =
    .next { hunting with sent := [.record 0#6 1023#10] } := by rfl
theorem witness_RecordsLeave_cut_short : gotMsb55.st = .gotMsb ∧ Event.eos ≠ .take ∧
    applyEvent .eos gotMsb55 = .next { stopped with sent := [.eos] } := ⟨rfl, by decide, rfl⟩
theorem witness_OutputsFunction : runEvents [.take, .eos] complete5 =
    .next { stopped with sent := [.record 5#6 341#10, .eos] } ∧
    complete5.sameRegisters { complete5 with sent := [.eos], pending := [0x3FF#10] } := ⟨rfl, rfl, rfl, rfl, rfl, rfl⟩
theorem witness_BytesConsumed : step { hunting with pending := [0x07F#10, 0x100#10] } = .next { hunting with pending := [0x100#10] } := by rfl
theorem witness_BytesConsumed_stop : complete5.st = .complete ∧ stopped.st = .eosStop := by decide
theorem witness_Waiting : hunting.pending = [] ∧ gotMsb55.inReady = true ∧ complete5.outValid = true ∧
    (∀ p ∈ [{ rst := false, inValid := false, inData := 0#8, inEos := false, outReady := true : PortsIn }],
      p.rst = false ∧ p.inValid = false ∧ p.inEos = false) ∧
    (∀ p ∈ [{ rst := false, inValid := true, inData := 0x82#8, inEos := true, outReady := false : PortsIn }],
      p.rst = false ∧ p.outReady = false) := by decide
theorem witness_EosStop : stopped.st = .eosStop ∧ exec .reset stopped = .next hunting ∧ Event.take ≠ .reset ∧
    (∀ p ∈ [{ rst := false, inValid := true, inData := 0xFF#8, inEos := true, outReady := true : PortsIn }],
      p.rst = false) := ⟨rfl, rfl, by decide, by decide⟩
theorem witness_PortPriority_reading : gotMsb55.inReady = true ∧ gotMsb55.outValid = false := by decide
theorem witness_PortPriority_complete : complete5.outValid = true ∧ complete5.inReady = false := by decide
theorem witness_Moore : hunting.sameRegisters { hunting with sent := [.eos] } ∧
    edge { rst := false, inValid := true, inData := 0x8A#8, inEos := false, outReady := false } hunting =
      .next gotChannel5 := ⟨⟨rfl, rfl, rfl, rfl, rfl⟩, rfl⟩
theorem witness_Refinement_event :
    selectEvent { rst := false, inValid := true, inData := 0x8A#8, inEos := false, outReady := false } hunting =
      some (.byte 0x8A#8) := by decide
theorem witness_Refinement_run : runEvents [.byte 0x8A#8, .byte 0x0A#8] hunting = .next gotMsb55 := by rfl
theorem witness_Refinement_infinite : (Trace.infinite fun _ => Event.reset).isRunFrom hunting := by
  intro n
  refine ⟨hunting, ?_⟩
  induction n with
  | zero => rfl
  | succ n ih => rw [first_succ_of_item rfl, runEvents_append _ ih]; rfl
theorem witness_StepRuns : { hunting with pending := [0x08A#10] }.pending = [0x08A#10] ∧
    decode .hunting 0x08A#10 = .ok (.huntMark 0x8A#8) := ⟨rfl, rfl⟩
theorem witness_StepRuns_refused : decode .complete 0x08A#10 = .error (.notEnabled .complete) ∧
    decode .complete 0x101#10 = .error (.notAnEvent 0x101#10) := ⟨rfl, rfl⟩
theorem witness_StepsRun : runEvents [.byte 0x2B#8] gotMsb55 = .next complete5 ∧ gotMsb55.pending = [] := ⟨rfl, rfl⟩
theorem witness_StepsRun_item : (Trace.finite [Event.byte 0x2B#8]).item 0 = some (.byte 0x2B#8) ∧
    (Trace.finite [Event.byte 0x2B#8]).item 1 = none ∧
    applyEvent (.byte 0x2B#8) gotMsb55 = .next complete5 := ⟨rfl, rfl, rfl⟩
theorem witness_Refinement_more :
    runEdges [drive (.byte 0x2B#8)] gotMsb55 = .next complete5 := by rfl
theorem witness_Runner : runEvents [.byte 0x2B#8] gotMsb55 = .next complete5 ∧ select complete5.st (.byte 0x00#8) = none := ⟨rfl, rfl⟩
theorem witness_PseudoInstructions : (63 ≤ 63 ∧ 1023 ≤ 1023) ∧ (63 < 64 ∨ 1023 < 0) := by decide
theorem witness_FetchWord : decodeTableWord 16 0x200 = some .emit ∧ decodeTableWord 16 0x101 = none ∧
    Instr.reset.standsIn .eosStop = true := by decide

end Sys2Proof.Tests
end

