-- ==== Sys2Proof/Proofs/Registers.lean ====
section
/-! PROOF. The datapath registers `chan`, `vhi`, `rec_ch` and `rec_val` (10_state.md R15 to R17): where each holds a value,
and what each operation leaves in it. -/

namespace Sys2Proof.Machine

/-- R45's mask and shift as a bit field. -/
theorem channelOf_eq_extractLsb' (b : Byte) : channelOf b = b.extractLsb' 1 6 := by
  revert b
  decide

/-- R46's msb mask and shift as a bit field. -/
theorem highFieldOf_eq_extractLsb' (b : Byte) : highFieldOf b = b.extractLsb' 1 4 := by
  revert b
  decide

/-- R46's lsb mask and shift are those of R45. -/
theorem lowFieldOf_eq_extractLsb' (b : Byte) : lowFieldOf b = b.extractLsb' 1 6 :=
  channelOf_eq_extractLsb' b

/-- R46's shift and or put the msb field over the lsb field. -/
theorem valueOf_eq_append (hi : HighField) (lo : LowField) : valueOf hi lo = hi ++ lo := by
  rw [BitVec.append_def, BitVec.shiftLeftZeroExtend_eq, BitVec.setWidth'_eq, valueOf, Config.valueShift]

/-- R19's table read by register: each holds a value in exactly the controller states listed. -/
theorem State.defined_iff (s : State) : s.defined = true ↔
    (s.chan.isSome = true ↔ s.st = .gotChannel ∨ s.st = .gotMsb) ∧
    (s.vhi.isSome = true ↔ s.st = .gotMsb) ∧
    (s.recCh.isSome = true ↔ s.st = .complete) ∧
    (s.recVal.isSome = true ↔ s.st = .complete) := by
  unfold State.defined
  cases s.st <;> simp [and_assoc]

variable {i : Instr} {s t : State}

/-- An operation keeps `chan`, clears it, or is HUNT_MARK and latches its byte's channel. -/
theorem exec_next_chan (h : exec i s = .next t) :
    t.chan = s.chan ∨ t.chan = none ∨ ∃ b, i = .huntMark b ∧ t.chan = some (channelOf b) := by
  cases i with
  | huntSkip b => obtain ⟨-, -, rfl⟩ := execHuntSkip_next h; exact .inl rfl
  | huntMark b => obtain ⟨-, -, rfl⟩ := execHuntMark_next h; exact .inr (.inr ⟨b, rfl, rfl⟩)
  | takeMsb b => obtain ⟨-, rfl⟩ := execTakeMsb_next h; exact .inl rfl
  | takeLsb b => obtain ⟨-, c, hi, -, -, rfl⟩ := execTakeLsb_next h; exact .inr (.inl rfl)
  | emit => obtain ⟨-, c, v, -, -, rfl⟩ := execEmit_next h; exact .inl rfl
  | eos => obtain ⟨-, rfl⟩ := execEos_next h; exact .inr (.inl rfl)
  | reset => obtain rfl := execReset_next h; exact .inr (.inl rfl)

/-- An operation keeps `vhi`, clears it, or is TAKE_MSB and latches its byte's msb field. -/
theorem exec_next_vhi (h : exec i s = .next t) :
    t.vhi = s.vhi ∨ t.vhi = none ∨ ∃ b, i = .takeMsb b ∧ t.vhi = some (highFieldOf b) := by
  cases i with
  | huntSkip b => obtain ⟨-, -, rfl⟩ := execHuntSkip_next h; exact .inl rfl
  | huntMark b => obtain ⟨-, -, rfl⟩ := execHuntMark_next h; exact .inl rfl
  | takeMsb b => obtain ⟨-, rfl⟩ := execTakeMsb_next h; exact .inr (.inr ⟨b, rfl, rfl⟩)
  | takeLsb b => obtain ⟨-, c, hi, -, -, rfl⟩ := execTakeLsb_next h; exact .inr (.inl rfl)
  | emit => obtain ⟨-, c, v, -, -, rfl⟩ := execEmit_next h; exact .inl rfl
  | eos => obtain ⟨-, rfl⟩ := execEos_next h; exact .inr (.inl rfl)
  | reset => obtain rfl := execReset_next h; exact .inr (.inl rfl)

/-- An operation keeps the record, clears it, or is TAKE_LSB and forms it from `chan`, `vhi` and its byte. -/
theorem exec_next_record (h : exec i s = .next t) :
    (t.recCh = s.recCh ∧ t.recVal = s.recVal) ∨ (t.recCh = none ∧ t.recVal = none) ∨
    ∃ b c hi, i = .takeLsb b ∧ s.chan = some c ∧ s.vhi = some hi ∧ t.recCh = some c ∧
      t.recVal = some (valueOf hi (lowFieldOf b)) := by
  cases i with
  | huntSkip b => obtain ⟨-, -, rfl⟩ := execHuntSkip_next h; exact .inl ⟨rfl, rfl⟩
  | huntMark b => obtain ⟨-, -, rfl⟩ := execHuntMark_next h; exact .inl ⟨rfl, rfl⟩
  | takeMsb b => obtain ⟨-, rfl⟩ := execTakeMsb_next h; exact .inl ⟨rfl, rfl⟩
  | takeLsb b =>
    obtain ⟨-, c, hi, hc, hv, rfl⟩ := execTakeLsb_next h
    exact .inr (.inr ⟨b, c, hi, rfl, hc, hv, rfl, rfl⟩)
  | emit => obtain ⟨-, c, v, -, -, rfl⟩ := execEmit_next h; exact .inr (.inl ⟨rfl, rfl⟩)
  | eos => obtain ⟨-, rfl⟩ := execEos_next h; exact .inl ⟨rfl, rfl⟩
  | reset => obtain rfl := execReset_next h; exact .inr (.inl ⟨rfl, rfl⟩)

/-- Only HUNT_MARK gives `chan` a value it did not hold: its byte's bits 6..1. -/
theorem exec_chan_writer {c : Channel} (h : exec i s = .next t) (ht : t.chan = some c) (hs : s.chan ≠ some c) :
    ∃ b, i = .huntMark b ∧ c = b.extractLsb' 1 6 := by
  obtain hkeep | hnone | ⟨b, rfl, hb⟩ := exec_next_chan h
  · exact absurd (hkeep.symm.trans ht) hs
  · cases hnone.symm.trans ht
  · cases ht.symm.trans hb
    exact ⟨b, rfl, channelOf_eq_extractLsb' b⟩

/-- Only TAKE_MSB gives `vhi` a value it did not hold: its byte's bits 4..1. -/
theorem exec_vhi_writer {f : HighField} (h : exec i s = .next t) (ht : t.vhi = some f) (hs : s.vhi ≠ some f) :
    ∃ b, i = .takeMsb b ∧ f = b.extractLsb' 1 4 := by
  obtain hkeep | hnone | ⟨b, rfl, hb⟩ := exec_next_vhi h
  · exact absurd (hkeep.symm.trans ht) hs
  · cases hnone.symm.trans ht
  · cases ht.symm.trans hb
    exact ⟨b, rfl, highFieldOf_eq_extractLsb' b⟩

/-- An operation that changes the record clears it, or is TAKE_LSB and copies `chan` and puts `vhi` over its byte's
bits 6..1. -/
theorem exec_record_writer (h : exec i s = .next t) (hne : t.recCh ≠ s.recCh ∨ t.recVal ≠ s.recVal) :
    (t.recCh = none ∧ t.recVal = none) ∨
    ∃ b c f, i = .takeLsb b ∧ s.chan = some c ∧ s.vhi = some f ∧ t.recCh = some c ∧
      t.recVal = some (f ++ b.extractLsb' 1 6) := by
  obtain ⟨hch, hval⟩ | hnone | ⟨b, c, f, rfl, hc, hf, hch, hval⟩ := exec_next_record h
  · exact hne.elim (absurd hch) (absurd hval)
  · exact .inl hnone
  · rw [valueOf_eq_append, lowFieldOf_eq_extractLsb'] at hval
    exact .inr ⟨b, c, f, rfl, hc, hf, hch, hval⟩

/-- EMIT hands out the record the registers hold. -/
theorem exec_emit_sends_record (h : exec .emit s = .next t) :
    ∃ c v, s.recCh = some c ∧ s.recVal = some v ∧ t.sent = s.sent ++ [.record c v] := by
  obtain ⟨-, c, v, hc, hv, rfl⟩ := execEmit_next h
  exact ⟨c, v, hc, hv, rfl⟩

/-- Settles O17: the liveness clause is R19's table read by register, and each clause on a writer is the case split over
the operations. -/
theorem datapathRegistersLiveWhereSaid : Obligations.DatapathRegistersLiveWhereSaid :=
  ⟨fun s => s.defined_iff.mp, fun _ _ _ _ => exec_chan_writer, fun _ _ _ _ => exec_vhi_writer,
    fun _ _ _ => exec_record_writer, fun _ _ => exec_emit_sends_record⟩

end Sys2Proof.Machine
end

