-- ==== Sys2Proof/Proofs/DataBytes.lean ====
section
/-! PROOF. The data bytes of a frame (41_frame_assembly.md R68, R69): where each leads, and the value the two form
(20_memory.md R31). -/

namespace Sys2Proof.Machine

/-- In GOT_CHANNEL a byte is TAKE_MSB (R68). -/
theorem applyEvent_byte_of_gotChannel {s : State} (b : Byte) (hst : s.st = .gotChannel) :
    applyEvent (.byte b) s = .next { s with vhi := some (highFieldOf b), st := .gotMsb } := by
  simp only [applyEvent, hst, select, exec, execTakeMsb, beq_self_eq_true, whenEnabled_true]
  rfl

/-- In GOT_MSB with both fields held a byte is TAKE_LSB (R69). -/
theorem applyEvent_byte_of_gotMsb {s : State} {c : Channel} {hi : HighField} (b : Byte) (hst : s.st = .gotMsb)
    (hc : s.chan = some c) (hv : s.vhi = some hi) :
    applyEvent (.byte b) s = .next { s with recCh := some c, recVal := some (valueOf hi (lowFieldOf b)),
                                            chan := none, vhi := none, st := .complete } := by
  simp only [applyEvent, hst, select, exec, execTakeLsb, beq_self_eq_true, whenEnabled_true, hc, hv, readReg_some]
  rfl

/-- The two data bytes of a frame whose channel is held lead to COMPLETE with the record they form. -/
theorem runEvents_dataBytes {s : State} {c : Channel} (m l : Byte) (hst : s.st = .gotChannel) (hc : s.chan = some c) :
    runEvents [.byte m, .byte l] s =
      .next { s with recCh := some c, recVal := some (valueOf (highFieldOf m) (lowFieldOf l)),
                     chan := none, vhi := none, st := .complete } := by
  rw [runEvents_cons _ (applyEvent_byte_of_gotChannel m hst)]
  exact runEvents_cons [] (applyEvent_byte_of_gotMsb l rfl hc rfl)

/-- R31's bits of the value the two data bytes form: the msb byte's bits 4..1 over the lsb byte's bits 6..1. -/
theorem valueOf_dataBytes (m l : Byte) :
    valueOf (highFieldOf m) (lowFieldOf l) = m.extractLsb' 1 4 ++ l.extractLsb' 1 6 := by
  rw [valueOf_eq_append, highFieldOf_eq_extractLsb', lowFieldOf_eq_extractLsb']

/-- Settles O32: the run ends with the record of the two data bytes, and its value is their fields side by side. -/
theorem valueComesMsbFirst : Obligations.ValueComesMsbFirst := by
  intro s c m l hst hc
  refine ⟨_, _, runEvents_dataBytes m l hst hc, rfl, rfl, ?_, ?_⟩ <;> rw [valueOf_dataBytes]
  · exact BitVec.extractLsb'_append_eq_left
  · exact BitVec.extractLsb'_append_eq_right

end Sys2Proof.Machine
end

/-! PROOF. The encoding of bytes (30_encoding.md): the fields a byte holds and the bits it ignores (R43, R45, R46), the
bytes of the reference encoder (R58), and what a byte does in each reading state, up to a whole frame (R51, R53). -/

namespace Sys2Proof.Machine

/-! ## Fields of a byte -/

/-- The field between two others is read back at its own place. -/
theorem extractLsb'_append_middle {k w n : Nat} (x : BitVec k) (y : BitVec w) (z : BitVec n) :
    (x ++ y ++ z).extractLsb' n w = y := by
  rw [BitVec.extractLsb'_append_eq_of_le le_rfl, Nat.sub_self, BitVec.extractLsb'_append_eq_right]

/-- The top bit of three fields side by side is that of the first. -/
theorem msb_append_append {k w n : Nat} (hk : k ≠ 0) (x : BitVec k) (y : BitVec w) (z : BitVec n) :
    (x ++ y ++ z).msb = x.msb := by
  rw [BitVec.msb_append, if_neg (by omega), BitVec.msb_append, if_neg hk]

/-- A shorter field at the same place is the low part of a longer one. -/
theorem extractLsb'_eq_of_longer {n start k l : Nat} {x y : BitVec n} (hkl : k ≤ l)
    (h : x.extractLsb' start l = y.extractLsb' start l) : x.extractLsb' start k = y.extractLsb' start k := by
  apply BitVec.eq_of_getLsbD_eq
  intro i hi
  have hbit := congrArg (BitVec.getLsbD · i) h
  simpa [BitVec.getLsbD_extractLsb', hi, hi.trans_le hkl] using hbit

/-- A field does not change under a flip of bits that all lie outside it. -/
theorem extractLsb'_xor_of_zero {n start l : Nat} (x : BitVec n) {d : BitVec n} (hd : d.extractLsb' start l = 0#l) :
    (x ^^^ d).extractLsb' start l = x.extractLsb' start l := by
  rw [BitVec.extractLsb'_xor, hd, BitVec.xor_zero]

/-- Bits chosen by a mask that misses a field leave the field 0. -/
theorem extractLsb'_eq_zero_of_masked {n start l : Nat} {d mask : BitVec n} (hmask : mask.extractLsb' start l = 0#l)
    (hd : d &&& mask = d) : d.extractLsb' start l = 0#l := by
  rw [← hd, BitVec.extractLsb'_and, hmask, BitVec.and_zero]

theorem toNat_channelOf (b : Byte) : (channelOf b).toNat = b.toNat / 2 % 64 := by
  rw [channelOf_eq_extractLsb', BitVec.extractLsb'_toNat, Nat.shiftRight_eq_div_pow]

theorem toNat_highFieldOf (m : Byte) : (highFieldOf m).toNat = m.toNat % 32 / 2 := by
  rw [highFieldOf_eq_extractLsb', BitVec.extractLsb'_toNat, Nat.shiftRight_eq_div_pow]
  omega

theorem toNat_valueOf (hi : HighField) (lo : LowField) : (valueOf hi lo).toNat = hi.toNat * 64 + lo.toNat := by
  rw [valueOf_eq_append, BitVec.toNat_append, ← Nat.shiftLeft_add_eq_or_of_lt lo.isLt, Nat.shiftLeft_eq]

/-- The channel formula ignores a flip of bits outside 6..1. -/
theorem channelOf_xor {d : Byte} (b : Byte) (hd : d.extractLsb' 1 6 = 0#6) : channelOf (b ^^^ d) = channelOf b := by
  simp only [channelOf_eq_extractLsb', extractLsb'_xor_of_zero b hd]

/-- Settles O28: the channel is the bit field 6..1, which a flip of bit 7 or of bit 0 does not touch. -/
theorem channelIsBits6To1 : Obligations.ChannelIsBits6To1 :=
  ⟨fun b => ⟨channelOf_eq_extractLsb' b, toNat_channelOf b, Nat.le_of_lt_succ (channelOf b).isLt⟩,
    fun b => ⟨channelOf_xor b (by decide), channelOf_xor b (by decide)⟩⟩

/-- Settles O29: each field is a bit field, the value their concatenation, and each ignored mask misses its field. -/
theorem valueIsHighOverLow : Obligations.ValueIsHighOverLow := by
  refine ⟨fun m => ⟨highFieldOf_eq_extractLsb' m, toNat_highFieldOf m⟩,
    fun l => ⟨lowFieldOf_eq_extractLsb' l, toNat_channelOf l⟩,
    fun hi lo => ⟨valueOf_eq_append hi lo, toNat_valueOf hi lo, Nat.le_of_lt_succ (valueOf hi lo).isLt⟩,
    fun m m' hm => ?_, fun l l' hl => ?_⟩
  · have hzero : m.extractLsb' 1 4 = 0#4 := extractLsb'_eq_zero_of_masked (by decide) hm
    simp only [highFieldOf_eq_extractLsb', extractLsb'_xor_of_zero m' hzero, hzero, and_self]
  · have hzero : l.extractLsb' 1 6 = 0#6 := extractLsb'_eq_zero_of_masked (by decide) hl
    simp only [lowFieldOf_eq_extractLsb', extractLsb'_xor_of_zero l' hzero, hzero, and_self]

/-! ## Roles of a byte -/

/-- A BYTE word decodes to the operation its byte selects. -/
theorem decode_byte {st : Ctrl} {b : Byte} {i : Instr} (h : select st (.byte b) = some i) :
    decode st (0b00#2 ++ b) = .ok i := by
  simp only [decode, Event.ofWord_byte, h]

/-- A byte whose top bit is 1 is a marker. -/
theorem isMarker_append (c : Channel) (x : BitVec 1) : isMarker (0b1#1 ++ c ++ x) = true := by
  have hmsb : (0b1#1 ++ c ++ x).msb = true := msb_append_append one_ne_zero 0b1#1 c x
  rw [isMarker_eq_bit7]
  exact (BitVec.msb_eq_getLsbD_last _).symm.trans hmsb

/-- Settles O30: the state alone selects the operation, the marker bit apart, and each field is read back from between
the free bits. -/
theorem byteRolesBitByBit : Obligations.ByteRolesBitByBit := by
  refine ⟨fun c x => ⟨decode_byte ?_, ?_⟩, fun x h y => ⟨decode_byte rfl, ?_⟩, fun x l y => ⟨decode_byte rfl, ?_⟩⟩
  · simp only [select, isMarker_append, if_true]
  · exact (channelOf_eq_extractLsb' _).trans (extractLsb'_append_middle _ c x)
  · exact (highFieldOf_eq_extractLsb' _).trans (extractLsb'_append_middle x h y)
  · exact (lowFieldOf_eq_extractLsb' _).trans (extractLsb'_append_middle x l y)

/-! ## The reference encoder -/

/-- The marker byte is bit 7, the channel and a canonical bit 0 of 0. -/
theorem markerByte_eq_append (ch : Channel) : markerByte ch = 0b1#1 ++ ch ++ 0b0#1 := by
  revert ch
  decide

/-- The msb byte is value bits 9..6 between zeros. -/
theorem msbByte_eq_append (val : Value) : msbByte val = 0b000#3 ++ val.extractLsb' 6 4 ++ 0b0#1 := by
  unfold msbByte
  generalize val.extractLsb' 6 4 = hi
  revert hi
  decide

/-- The lsb byte is value bits 5..0 between a 0 in bit 7 and a 1 in bit 0. -/
theorem lsbByte_eq_append (val : Value) : lsbByte val = 0b0#1 ++ val.extractLsb' 0 6 ++ 0b1#1 := by
  unfold lsbByte
  generalize val.extractLsb' 0 6 = lo
  revert lo
  decide

/-- Bit 7 of the msb byte is 0. -/
theorem toNat_msbByte_lt (val : Value) : (msbByte val).toNat < 0x80 := by
  rw [msbByte_eq_append]
  exact BitVec.toNat_lt_of_msb_false (msb_append_append (by decide) _ _ _)

/-- Bit 7 of the lsb byte is 0. -/
theorem toNat_lsbByte_lt (val : Value) : (lsbByte val).toNat < 0x80 := by
  rw [lsbByte_eq_append]
  exact BitVec.toNat_lt_of_msb_false (msb_append_append (by decide) _ _ _)

/-- The three canonical bytes, bit by bit (R58). -/
theorem encodeFrame_eq_append (ch : Channel) (val : Value) :
    encodeFrame ch val =
      [0b1#1 ++ ch ++ 0b0#1, 0b000#3 ++ val.extractLsb' 6 4 ++ 0b0#1, 0b0#1 ++ val.extractLsb' 0 6 ++ 0b1#1] := by
  rw [encodeFrame, markerByte_eq_append, msbByte_eq_append, lsbByte_eq_append]

/-- Settles O37: each byte is its field between canonical bits, and both data bytes have bit 7 = 0. -/
theorem referenceEncoderBytes : Obligations.ReferenceEncoderBytes :=
  ⟨fun ch val => ⟨encodeFrame_eq_append ch val, rfl⟩, fun val => ⟨toNat_msbByte_lt val, toNat_lsbByte_lt val⟩,
    by decide⟩

/-! ## What a byte does in each reading state -/

/-- In HUNTING a marker byte starts a frame (R63), and any other byte is discarded (R62). -/
theorem applyEvent_byte_of_hunting {s : State} (b : Byte) (hst : s.st = .hunting) :
    applyEvent (.byte b) s =
      .next (if isMarker b then { s with chan := some (channelOf b), st := .gotChannel } else s) := by
  cases hb : isMarker b with
  | true =>
    simp only [applyEvent, hst, select, hb, if_true, exec, execHuntMark, beq_self_eq_true, Bool.and_self,
      whenEnabled_true]
    rfl
  | false => simp [applyEvent, hst, select, hb, exec, execHuntSkip, State.goTo_self hst]

/-- A byte with bit 7 = 0 is discarded in HUNTING. -/
theorem applyEvent_junk {s : State} {b : Byte} (hst : s.st = .hunting) (hb : b.getLsbD 7 = false) :
    applyEvent (.byte b) s = .next s := by
  rw [applyEvent_byte_of_hunting b hst, isMarker_eq_bit7, hb]
  rfl

/-- A byte with bit 7 = 1 starts a frame in HUNTING. -/
theorem applyEvent_marker {s : State} {b : Byte} (hst : s.st = .hunting) (hb : b.getLsbD 7 = true) :
    applyEvent (.byte b) s = .next { s with chan := some (channelOf b), st := .gotChannel } := by
  rw [applyEvent_byte_of_hunting b hst, isMarker_eq_bit7, hb]
  rfl

/-- HUNTING looks at bits 7..1 of a byte only. -/
theorem applyEvent_byte_congr_of_hunting {s : State} {b b' : Byte} (hst : s.st = .hunting)
    (h : b.extractLsb' 1 7 = b'.extractLsb' 1 7) : applyEvent (.byte b) s = applyEvent (.byte b') s := by
  have hbit : b.getLsbD 7 = b'.getLsbD 7 := by
    simpa [BitVec.getLsbD_extractLsb'] using congrArg (BitVec.getLsbD · 6) h
  have hfield : b.extractLsb' 1 6 = b'.extractLsb' 1 6 := extractLsb'_eq_of_longer (by decide) h
  simp only [applyEvent_byte_of_hunting _ hst, isMarker_eq_bit7, channelOf_eq_extractLsb', hbit, hfield]

/-- GOT_CHANNEL looks at bits 4..1 of a byte only. -/
theorem applyEvent_byte_congr_of_gotChannel {s : State} {b b' : Byte} (hst : s.st = .gotChannel)
    (h : b.extractLsb' 1 4 = b'.extractLsb' 1 4) : applyEvent (.byte b) s = applyEvent (.byte b') s := by
  simp only [applyEvent_byte_of_gotChannel _ hst, highFieldOf_eq_extractLsb', h]

/-- GOT_MSB looks at bits 6..1 of a byte only, also where a register it reads holds no value. -/
theorem applyEvent_byte_congr_of_gotMsb {s : State} {b b' : Byte} (hst : s.st = .gotMsb)
    (h : b.extractLsb' 1 6 = b'.extractLsb' 1 6) : applyEvent (.byte b) s = applyEvent (.byte b') s := by
  simp only [applyEvent, hst, select, exec, execTakeLsb, lowFieldOf_eq_extractLsb', h]

/-- Where R19's table is met, GOT_MSB holds both fields that TAKE_LSB reads. -/
theorem State.fields_of_defined_gotMsb {s : State} (hdef : s.defined = true) (hst : s.st = .gotMsb) :
    ∃ c hi, s.chan = some c ∧ s.vhi = some hi := by
  obtain ⟨hchan, hvhi, -, -⟩ := s.defined_iff.mp hdef
  obtain ⟨c, hc⟩ := Option.isSome_iff_exists.mp (hchan.mpr (.inr hst))
  obtain ⟨hi, hv⟩ := Option.isSome_iff_exists.mp (hvhi.mpr hst)
  exact ⟨c, hi, hc, hv⟩

/-- Every byte has its step in a reading state that meets R19's table. -/
theorem applyEvent_byte_of_defined {s : State} (b : Byte) (hdef : s.defined = true)
    (hst : s.st = .hunting ∨ s.st = .gotChannel ∨ s.st = .gotMsb) : ∃ t, applyEvent (.byte b) s = .next t := by
  obtain hst | hst | hst := hst
  · exact ⟨_, applyEvent_byte_of_hunting b hst⟩
  · exact ⟨_, applyEvent_byte_of_gotChannel b hst⟩
  · obtain ⟨c, hi, hc, hv⟩ := State.fields_of_defined_gotMsb hdef hst
    exact ⟨_, applyEvent_byte_of_gotMsb b hst hc hv⟩

/-- Settles O31: a byte's step in each reading state, and the bits of the byte that step looks at. -/
theorem everyByteHasAnEffect : Obligations.EveryByteHasAnEffect :=
  ⟨fun _ => applyEvent_byte_of_defined, fun _ _ => applyEvent_junk, fun _ _ _ => applyEvent_byte_congr_of_hunting,
    fun _ _ _ => applyEvent_byte_congr_of_gotChannel, fun _ _ _ => applyEvent_byte_congr_of_gotMsb⟩

/-! ## Frames after discarded bytes -/

/-- Bytes with bit 7 = 0 leave HUNTING as it is, however many. -/
theorem runEvents_junk {s : State} {junk : List Byte} (hst : s.st = .hunting)
    (hjunk : ∀ b ∈ junk, b.getLsbD 7 = false) : runEvents (junk.map .byte) s = .next s := by
  induction junk with
  | nil => rfl
  | cons b bs ih =>
    obtain ⟨hb, hbs⟩ := List.forall_mem_cons.mp hjunk
    rw [List.map_cons, runEvents_cons _ (applyEvent_junk hst hb)]
    exact ih hbs

/-- Bytes after junk run as if they came first. -/
theorem runEvents_junk_append {s : State} {junk : List Byte} (bs : List Byte) (hst : s.st = .hunting)
    (hjunk : ∀ b ∈ junk, b.getLsbD 7 = false) :
    runEvents ((junk ++ bs).map .byte) s = runEvents (bs.map .byte) s := by
  rw [List.map_append, runEvents_append _ (runEvents_junk hst hjunk)]

/-- Bytes after junk and a marker run from GOT_CHANNEL with the marker's channel. -/
theorem runEvents_junk_marker {s : State} {junk : List Byte} {m : Byte} (bs : List Byte) (hst : s.st = .hunting)
    (hjunk : ∀ b ∈ junk, b.getLsbD 7 = false) (hm : m.getLsbD 7 = true) :
    runEvents ((junk ++ m :: bs).map .byte) s =
      runEvents (bs.map .byte) { s with chan := some (channelOf m), st := .gotChannel } := by
  rw [runEvents_junk_append _ hst hjunk, List.map_cons, runEvents_cons _ (applyEvent_marker hst hm)]

/-- Settles O34: the junk is an induction that keeps HUNTING, and from the marker on each byte moves one state, by its
place alone. -/
theorem frameIsThreeBytes : Obligations.FrameIsThreeBytes := by
  intro s junk m d1 d2 hst hjunk hm
  have hframe (bs : List Byte) := runEvents_junk_marker bs hst hjunk hm
  exact ⟨_, _, _, runEvents_junk hst hjunk,
    hframe [], rfl,
    (hframe [d1]).trans (runEvents_cons [] (applyEvent_byte_of_gotChannel d1 rfl)), rfl,
    (hframe [d1, d2]).trans (runEvents_dataBytes d1 d2 rfl rfl), rfl⟩

end Sys2Proof.Machine

/-! PROOF. Channel synchronization (40_synchronizer.md): what HUNT_SKIP and HUNT_MARK do in HUNTING, as a meaning, as a
decoded word, as a step that consumes the word, and on the status flags (R62, R63). -/

namespace Sys2Proof.Machine

/-! ## A pending word's step, and the flags of a controller state -/

/-- A word that decodes is performed as its operation. -/
theorem performWord_of_decode {s : State} {w : EventWord} {i : Instr} (h : decode s.st w = .ok i) :
    performWord w s = exec i s := by
  simp only [performWord, h]

/-- A step consumes the next pending word and performs the operation it decodes to (R54). -/
theorem step_of_decode {s : State} {w : EventWord} {i : Instr} (h : decode s.st w = .ok i) (rest : List EventWord) :
    step { s with pending := w :: rest } = exec i { s with pending := rest } :=
  performWord_of_decode (s := { s with pending := rest }) h

/-- The three flags and the status code are those of the controller state (R22, R23). -/
theorem State.flags_of_st {s : State} {c : Ctrl} (hst : s.st = c) :
    s.inReady = c.reading ∧ s.outValid = (c == .complete) ∧ s.eosFlag = (c == .eosStop) ∧ s.stOut = c.code := by
  subst hst
  exact ⟨rfl, rfl, rfl, rfl⟩

/-! ## HUNT_SKIP -/

/-- In HUNTING the word of a byte with bit 7 = 0 is HUNT_SKIP. -/
theorem decode_huntSkip {st : Ctrl} {b : Byte} (hst : st = .hunting) (hb : b.getLsbD 7 = false) :
    decode st (0b00#2 ++ b) = .ok (.huntSkip b) := by
  have hmarker : isMarker b = false := (isMarker_eq_bit7 b).trans hb
  exact decode_byte (by simp [hst, select, hmarker])

/-- In HUNTING a byte with bit 7 = 0 is discarded and no register changes. -/
theorem exec_huntSkip_of_hunting {s : State} {b : Byte} (hst : s.st = .hunting) (hb : b.getLsbD 7 = false) :
    exec (.huntSkip b) s = .next s := by
  have hmarker : isMarker b = false := (isMarker_eq_bit7 b).trans hb
  simp [exec, execHuntSkip, hst, hmarker, State.goTo_self hst]

/-- Settles O18: the word decodes to HUNT_SKIP, whose meaning keeps the state that the fetch left. -/
theorem huntSkipDiscardsByte : Obligations.HuntSkipDiscardsByte := by
  intro s b hst hb
  have hdec := decode_huntSkip hst hb
  obtain ⟨hready, hvalid, heos, -⟩ := State.flags_of_st hst
  exact ⟨exec_huntSkip_of_hunting hst hb, hdec,
    fun rest => (step_of_decode hdec rest).trans (exec_huntSkip_of_hunting hst hb), hready, hvalid, heos⟩

/-! ## HUNT_MARK -/

/-- In HUNTING the word of a byte with bit 7 = 1 is HUNT_MARK. -/
theorem decode_huntMark {st : Ctrl} {b : Byte} (hst : st = .hunting) (hb : b.getLsbD 7 = true) :
    decode st (0b00#2 ++ b) = .ok (.huntMark b) := by
  have hmarker : isMarker b = true := (isMarker_eq_bit7 b).trans hb
  exact decode_byte (by simp [hst, select, hmarker])

/-- In HUNTING a byte with bit 7 = 1 gives `chan` its bits 6..1 and moves to GOT_CHANNEL. -/
theorem exec_huntMark_of_hunting {s : State} {b : Byte} (hst : s.st = .hunting) (hb : b.getLsbD 7 = true) :
    exec (.huntMark b) s = .next { s with chan := some (b.extractLsb' 1 6), st := .gotChannel } := by
  have hmarker : isMarker b = true := (isMarker_eq_bit7 b).trans hb
  simp [exec, execHuntMark, hst, hmarker, channelOf_eq_extractLsb', State.putChan, State.goTo]

/-- Where HUNT_MARK answers a state, it went from HUNTING to GOT_CHANNEL. -/
theorem exec_huntMark_st {b : Byte} {s t : State} (h : exec (.huntMark b) s = .next t) :
    s.st = .hunting ∧ t.st = .gotChannel := by
  obtain ⟨hst, -, rfl⟩ := execHuntMark_next h
  exact ⟨hst, rfl⟩

/-- Where HUNT_MARK answers a state, `chan` is the byte's channel there. -/
theorem exec_huntMark_chan {b : Byte} {s t : State} (h : exec (.huntMark b) s = .next t) :
    t.chan = some (channelOf b) := by
  obtain ⟨-, -, rfl⟩ := execHuntMark_next h
  rfl

/-- HUNT_MARK moves `st_out` from 0 to 1 and leaves the flags at 1, 0, 0. -/
theorem exec_huntMark_flags {b : Byte} {s t : State} (h : exec (.huntMark b) s = .next t) :
    s.inReady = true ∧ s.outValid = false ∧ s.eosFlag = false ∧ s.stOut = 0#3 ∧
    t.inReady = true ∧ t.outValid = false ∧ t.eosFlag = false ∧ t.stOut = 1#3 := by
  obtain ⟨hs, ht⟩ := exec_huntMark_st h
  obtain ⟨hready, hvalid, heos, hcode⟩ := State.flags_of_st hs
  exact ⟨hready, hvalid, heos, hcode, State.flags_of_st ht⟩

/-- Two marker bytes of one channel both latch it. -/
theorem exec_huntMark_chan_of_either {b b' : Byte} {c : Channel} {s t : State} (hb : channelOf b = c)
    (hb' : channelOf b' = c) (h : exec (.huntMark b) s = .next t ∨ exec (.huntMark b') s = .next t) :
    t.chan = some c := by
  obtain h | h := h
  · rw [exec_huntMark_chan h, hb]
  · rw [exec_huntMark_chan h, hb']

/-- Settles O19: the word decodes to HUNT_MARK, whose meaning latches bits 6..1 in the state that the fetch left; bit 0
of the corner bytes is outside that field, and in the two data states the decoder looks at no bit of the byte. -/
theorem huntMarkLatchesChannel : Obligations.HuntMarkLatchesChannel := by
  refine ⟨fun s b hst hb => ?_, fun _ _ => exec_huntMark_chan_of_either (by decide) (by decide),
    fun _ _ => exec_huntMark_chan_of_either (by decide) (by decide), fun b => ⟨decode_byte rfl, decode_byte rfl⟩⟩
  have hdec := decode_huntMark hst hb
  exact ⟨exec_huntMark_of_hunting hst hb, hdec,
    fun rest => (step_of_decode hdec rest).trans (exec_huntMark_of_hunting hst hb), fun _ => exec_huntMark_flags⟩

end Sys2Proof.Machine

/-! PROOF. Frame extraction (41_frame_assembly.md): what TAKE_MSB, TAKE_LSB and EMIT do under their preconditions, as a
meaning, as a decoded word, as a step that consumes the word, and on the status flags (R68 to R70). -/

namespace Sys2Proof.Machine

/-- An event is performed as the operation it selects (R54). -/
theorem applyEvent_of_select {s : State} {e : Event} {i : Instr} (h : select s.st e = some i) :
    applyEvent e s = exec i s := by
  simp only [applyEvent, h]

/-! ## TAKE_MSB -/

/-- In GOT_CHANNEL every byte selects TAKE_MSB. -/
theorem select_byte_of_gotChannel {st : Ctrl} (b : Byte) (hst : st = .gotChannel) :
    select st (.byte b) = some (.takeMsb b) := by
  rw [hst, select]

/-- In GOT_CHANNEL TAKE_MSB gives `vhi` the byte's bits 4..1 and moves to GOT_MSB. -/
theorem exec_takeMsb_of_gotChannel {s : State} (b : Byte) (hst : s.st = .gotChannel) :
    exec (.takeMsb b) s = .next { s with vhi := some (b.extractLsb' 1 4), st := .gotMsb } := by
  rw [← applyEvent_of_select (select_byte_of_gotChannel b hst), applyEvent_byte_of_gotChannel b hst,
    highFieldOf_eq_extractLsb']

/-- TAKE_MSB moves `st_out` from 1 to 2 and keeps reading. -/
theorem exec_takeMsb_flags {b : Byte} {s t : State} (h : exec (.takeMsb b) s = .next t) :
    s.inReady = true ∧ s.outValid = false ∧ s.stOut = 1#3 ∧
    t.inReady = true ∧ t.outValid = false ∧ t.stOut = 2#3 := by
  obtain ⟨hst, rfl⟩ := execTakeMsb_next h
  obtain ⟨hready, hvalid, -, hcode⟩ := State.flags_of_st hst
  exact ⟨hready, hvalid, hcode, rfl, rfl, rfl⟩

/-- Settles O20: the word decodes to TAKE_MSB, whose meaning latches bits 4..1 in the state that the fetch left. -/
theorem takeMsbLatchesHighField : Obligations.TakeMsbLatchesHighField := by
  intro s b hst _
  have hdec := decode_byte (select_byte_of_gotChannel b hst)
  exact ⟨exec_takeMsb_of_gotChannel b hst, hdec,
    fun rest => (step_of_decode hdec rest).trans (exec_takeMsb_of_gotChannel b hst), fun _ => exec_takeMsb_flags⟩

/-! ## TAKE_LSB -/

/-- In GOT_MSB every byte selects TAKE_LSB. -/
theorem select_byte_of_gotMsb {st : Ctrl} (b : Byte) (hst : st = .gotMsb) :
    select st (.byte b) = some (.takeLsb b) := by
  rw [hst, select]

/-- In GOT_MSB with both fields held TAKE_LSB forms the record, `vhi` over the byte's bits 6..1, and moves to
COMPLETE. -/
theorem exec_takeLsb_of_gotMsb {s : State} {c : Channel} {hi : HighField} (b : Byte) (hst : s.st = .gotMsb)
    (hc : s.chan = some c) (hv : s.vhi = some hi) :
    exec (.takeLsb b) s = .next { s with recCh := some c, recVal := some (hi ++ b.extractLsb' 1 6),
                                         chan := none, vhi := none, st := .complete } := by
  rw [← applyEvent_of_select (select_byte_of_gotMsb b hst), applyEvent_byte_of_gotMsb b hst hc hv,
    valueOf_eq_append, lowFieldOf_eq_extractLsb']

/-- TAKE_LSB moves `st_out` from 2 to 3, stops reading and offers the record. -/
theorem exec_takeLsb_flags {b : Byte} {s t : State} (h : exec (.takeLsb b) s = .next t) :
    s.inReady = true ∧ s.outValid = false ∧ s.stOut = 2#3 ∧
    t.inReady = false ∧ t.outValid = true ∧ t.stOut = 3#3 := by
  obtain ⟨hst, _, _, -, -, rfl⟩ := execTakeLsb_next h
  obtain ⟨hready, hvalid, -, hcode⟩ := State.flags_of_st hst
  exact ⟨hready, hvalid, hcode, rfl, rfl, rfl⟩

/-- Settles O22: the word decodes to TAKE_LSB, whose meaning reads both held fields in the state that the fetch left. -/
theorem takeLsbFormsRecord : Obligations.TakeLsbFormsRecord := by
  intro s b c hi hst hc hv
  have hdec := decode_byte (select_byte_of_gotMsb b hst)
  exact ⟨exec_takeLsb_of_gotMsb b hst hc hv, hdec,
    fun rest => (step_of_decode hdec rest).trans (exec_takeLsb_of_gotMsb b hst hc hv), fun _ => exec_takeLsb_flags⟩

/-! ## EMIT -/

/-- In COMPLETE the word of TAKE is EMIT. -/
theorem decode_emit {st : Ctrl} (hst : st = .complete) : decode st 0b1000000000#10 = .ok .emit := by
  subst hst
  rfl

/-- In COMPLETE with a record held EMIT hands it out, clears it and moves to HUNTING. -/
theorem exec_emit_of_complete {s : State} {c : Channel} {v : Value} (hst : s.st = .complete)
    (hc : s.recCh = some c) (hv : s.recVal = some v) :
    exec .emit s = .next { s with sent := s.sent ++ [.record c v], recCh := none, recVal := none, st := .hunting } := by
  simp only [exec, execEmit, hst, beq_self_eq_true, whenEnabled_true, hc, hv, readReg_some]
  rfl

/-- EMIT moves `st_out` from 3 to 0, withdraws the record and reads again. -/
theorem exec_emit_flags {s t : State} (h : exec .emit s = .next t) :
    s.inReady = false ∧ s.outValid = true ∧ s.stOut = 3#3 ∧
    t.inReady = true ∧ t.outValid = false ∧ t.stOut = 0#3 := by
  obtain ⟨hst, _, _, -, -, rfl⟩ := execEmit_next h
  obtain ⟨hready, hvalid, -, hcode⟩ := State.flags_of_st hst
  exact ⟨hready, hvalid, hcode, rfl, rfl, rfl⟩

/-- Settles O23: the word decodes to EMIT, whose meaning hands the held record out in the state that the fetch left. -/
theorem emitHandsRecordOut : Obligations.EmitHandsRecordOut := by
  intro s c v hst hc hv
  have hdec := decode_emit hst
  exact ⟨exec_emit_of_complete hst hc hv, hdec,
    fun rest => (step_of_decode hdec rest).trans (exec_emit_of_complete hst hc hv), fun _ => exec_emit_flags⟩

end Sys2Proof.Machine

/-! PROOF. The event word, the opcode map and its decoder (30_encoding.md R48 to R52): events and words stand for each
other, the decoder and the encoder undo each other, and the rows of opcode_table.json select what the decoder does. -/

namespace Sys2Proof.Machine

/-! ## Event words -/

/-- Two fields side by side are equal field by field. -/
theorem append_eq_append_iff {k n : Nat} {x x' : BitVec k} {y y' : BitVec n} :
    x ++ y = x' ++ y' ↔ x = x' ∧ y = y' := by
  constructor
  · intro h
    constructor
    · simpa only [BitVec.extractLsb'_append_eq_left] using congrArg (BitVec.extractLsb' n k) h
    · simpa only [BitVec.extractLsb'_append_eq_right] using congrArg (BitVec.extractLsb' 0 n) h
  · rintro ⟨rfl, rfl⟩
    rfl

/-- An event word is its kind over its data (R48). -/
theorem kindOf_append_dataOf (w : EventWord) : kindOf w ++ dataOf w = w :=
  (BitVec.extractLsb'_append_extractLsb'_eq_extractLsb' rfl).trans BitVec.extractLsb'_eq_self

/-- The word of an event reads back as that event. -/
@[simp] theorem ofWord_toWord (e : Event) : Event.ofWord e.toWord = .ok e := by
  cases e with
  | byte b => exact Event.ofWord_byte b
  | eos => rfl
  | take => rfl
  | reset => rfl

/-- R52: a non-BYTE word with data bits set encodes no event. -/
theorem ofWord_of_data_ne_zero {w : EventWord} (hk : kindOf w ≠ 0b00#2) (hd : dataOf w ≠ 0x00#8) :
    Event.ofWord w = .error (.notAnEvent w) := by
  rw [Event.ofWord, if_neg hk, if_pos hd]

/-- Of the four kinds one is left when the first three are ruled out. -/
theorem kind_eq_reset {k : BitVec 2} (h0 : k ≠ 0b00#2) (h1 : k ≠ 0b01#2) (h2 : k ≠ 0b10#2) : k = 0b11#2 := by
  revert k
  decide

/-- A word is an event's word, or it is one that R52 refuses. -/
theorem eq_toWord_or_refused (w : EventWord) :
    (∃ e : Event, w = e.toWord) ∨ (kindOf w ≠ 0b00#2 ∧ dataOf w ≠ 0x00#8) := by
  have hw := (kindOf_append_dataOf w).symm
  by_cases hk : kindOf w = 0b00#2
  · rw [hk] at hw
    exact .inl ⟨.byte (dataOf w), hw⟩
  by_cases hd : dataOf w = 0x00#8
  · rw [hd] at hw
    by_cases h1 : kindOf w = 0b01#2
    · rw [h1] at hw
      exact .inl ⟨.eos, hw⟩
    by_cases h2 : kindOf w = 0b10#2
    · rw [h2] at hw
      exact .inl ⟨.take, hw⟩
    rw [kind_eq_reset hk h1 h2] at hw
    exact .inl ⟨.reset, hw⟩
  · exact .inr ⟨hk, hd⟩

/-- A word that reads as an event is that event's word. -/
theorem toWord_of_ofWord {w : EventWord} {e : Event} (h : Event.ofWord w = .ok e) : e.toWord = w := by
  obtain ⟨e', rfl⟩ | ⟨hk, hd⟩ := eq_toWord_or_refused w
  · rw [ofWord_toWord] at h
    cases h
    rfl
  · rw [ofWord_of_data_ne_zero hk hd] at h
    cases h

/-- Settles O1: the two readings undo each other, and each word is its kind over its data. -/
theorem eventWordsRoundTrip : Obligations.EventWordsRoundTrip :=
  ⟨ofWord_toWord, fun _ _ => toWord_of_ofWord, fun b => ⟨kindOf_append _ b, dataOf_append _ b⟩,
    rfl, rfl, rfl, rfl, rfl, rfl⟩

/-! ## The opcode map -/


/-- HUNT_SKIP allows the bytes with bit 7 = 0. -/
theorem wellFormed_huntSkip {b : Byte} : (Instr.huntSkip b).wellFormed = true ↔ b.getLsbD 7 = false :=
  iff_of_eq (Bool.not_eq_true' _)

/-- In HUNTING a byte with bit 7 = 0 is HUNT_SKIP's. -/
theorem select_junk {b : Byte} (hb : b.getLsbD 7 = false) : select .hunting (.byte b) = some (.huntSkip b) := by
  simp only [select, isMarker_eq_bit7, hb, Bool.false_eq_true, if_false]

/-- In HUNTING a byte with bit 7 = 1 is HUNT_MARK's. -/
theorem select_marker {b : Byte} (hb : b.getLsbD 7 = true) : select .hunting (.byte b) = some (.huntMark b) := by
  simp only [select, isMarker_eq_bit7, hb, if_true]

/-- The operation a pair selects has its row there: its own event, a byte the row allows, the state it stands in. -/
theorem row_of_select {st : Ctrl} {e : Event} {i : Instr} (h : select st e = some i) :
    i.event = e ∧ i.wellFormed = true ∧ i.standsIn st = true := by
  cases st with
  | hunting =>
    cases e with
    | byte b =>
      cases hb : b.getLsbD 7 with
      | false => cases (select_junk hb).symm.trans h; exact ⟨rfl, wellFormed_huntSkip.mpr hb, rfl⟩
      | true => cases (select_marker hb).symm.trans h; exact ⟨rfl, hb, rfl⟩
    | eos => cases h; exact ⟨rfl, rfl, rfl⟩
    | take => cases h
    | reset => cases h; exact ⟨rfl, rfl, rfl⟩
  | gotChannel => cases e <;> cases h <;> exact ⟨rfl, rfl, rfl⟩
  | gotMsb => cases e <;> cases h <;> exact ⟨rfl, rfl, rfl⟩
  | complete => cases e <;> cases h <;> exact ⟨rfl, rfl, rfl⟩
  | eosStop =>
    cases e <;> cases h
    exact ⟨rfl, rfl, rfl⟩

/-- An operation is what its event selects, with a byte its row allows, wherever it stands. -/
theorem select_of_row {st : Ctrl} {i : Instr} (hwf : i.wellFormed = true) (hst : i.standsIn st = true) :
    select st i.event = some i := by
  cases i with
  | huntSkip b =>
    obtain rfl : st = .hunting := eq_of_beq hst
    exact select_junk (wellFormed_huntSkip.mp hwf)
  | huntMark b =>
    obtain rfl : st = .hunting := eq_of_beq hst
    exact select_marker hwf
  | takeMsb b => exact select_byte_of_gotChannel b (eq_of_beq hst)
  | takeLsb b => exact select_byte_of_gotMsb b (eq_of_beq hst)
  | emit =>
    obtain rfl : st = .complete := eq_of_beq hst
    rfl
  | eos => revert hst; cases st <;> decide
  | reset => cases st <;> rfl

/-- The pairs R50 leaves without an operation. -/
theorem select_eq_none_iff {st : Ctrl} {e : Event} :
    select st e = none ↔
      ((st = .complete ∨ st = .eosStop) ∧ (e = .eos ∨ ∃ b, e = .byte b)) ∨ (st ≠ .complete ∧ e = .take) := by
  cases st <;> cases e <;> simp [select]

/-! ## The decoder and the encoder -/

/-- The word of an operation is the word of its event. -/
theorem encode_eq_toWord (i : Instr) : encode i = i.event.toWord := by
  cases i <;> rfl

/-- An event's word decodes to the operation the event selects. -/
theorem decode_toWord {st : Ctrl} {e : Event} {i : Instr} (h : select st e = some i) :
    decode st e.toWord = .ok i := by
  simp only [decode, ofWord_toWord, h]

/-- An event's word is refused where the event is not enabled. -/
theorem decode_toWord_of_none {st : Ctrl} {e : Event} (h : select st e = none) :
    decode st e.toWord = .error (.notEnabled st) := by
  simp only [decode, ofWord_toWord, h]

/-- A word that encodes no event is refused as such in every controller state. -/
theorem decode_of_data_ne_zero {w : EventWord} (hk : kindOf w ≠ 0b00#2) (hd : dataOf w ≠ 0x00#8) (st : Ctrl) :
    decode st w = .error (.notAnEvent w) := by
  simp only [decode, ofWord_of_data_ne_zero hk hd]

/-- A word that decodes is the word of an event that selects the operation. -/
theorem exists_event_of_decode {st : Ctrl} {w : EventWord} {i : Instr} (h : decode st w = .ok i) :
    ∃ e : Event, w = e.toWord ∧ select st e = some i := by
  obtain ⟨e, rfl⟩ | ⟨hk, hd⟩ := eq_toWord_or_refused w
  · cases hs : select st e with
    | none => cases (decode_toWord_of_none hs).symm.trans h
    | some j => cases (decode_toWord hs).symm.trans h; exact ⟨e, rfl, hs⟩
  · cases (decode_of_data_ne_zero hk hd st).symm.trans h

/-- Settles O4: the word is the event's, and the event selects the operation wherever the operation stands. -/
theorem decodeOfEncode : Obligations.DecodeOfEncode := by
  intro i st hwf hst
  rw [encode_eq_toWord]
  exact decode_toWord (select_of_row hwf hst)

/-- Settles O5: the word is that of the event the operation's row names. -/
theorem encodeOfDecode : Obligations.EncodeOfDecode := by
  intro st w i h
  obtain ⟨e, rfl, hs⟩ := exists_event_of_decode h
  obtain ⟨rfl, hwf, hst⟩ := row_of_select hs
  exact ⟨encode_eq_toWord i, hwf, hst⟩

/-- Settles O3: each word is an event's, and the event selects the operation in the state named. -/
theorem writtenOutWordsDecode : Obligations.WrittenOutWordsDecode :=
  ⟨decode_toWord (e := .byte 0x2B#8) rfl, decode_toWord (e := .byte 0x8A#8) rfl,
    decode_toWord (e := .byte 0x0A#8) rfl, decode_toWord (e := .byte 0x2B#8) rfl,
    decode_toWord (e := .take) rfl, decode_toWord (e := .eos) rfl, decode_toWord (e := .reset) rfl,
    decode_of_data_ne_zero (by decide) (by decide) _, decode_toWord_of_none (e := .byte 0x8A#8) rfl⟩

/-! ## The rows of opcode_table.json -/

/-- An event word is made of a kind and a data byte exactly when these are its fields. -/
theorem eq_append_iff {w : EventWord} {k : BitVec 2} {b : Byte} : w = k ++ b ↔ kindOf w = k ∧ dataOf w = b := by
  rw [← append_eq_append_iff, kindOf_append_dataOf]

/-- A mask over the kind and some data bits keeps the kind and masks the data. -/
theorem and_append_mask (w : EventWord) (m : Byte) : w &&& (0b11#2 ++ m) = kindOf w ++ (dataOf w &&& m) := by
  conv_lhs => rw [← kindOf_append_dataOf w, BitVec.and_append]
  exact append_eq_append_iff.mpr ⟨BitVec.and_allOnes, rfl⟩

/-- What a masked word matches: the kind whole, the data under the mask. -/
theorem masked_eq_iff {w : EventWord} {m d : Byte} {k : BitVec 2} :
    w &&& (0b11#2 ++ m) = k ++ d ↔ kindOf w = k ∧ dataOf w &&& m = d := by
  rw [and_append_mask, append_eq_append_iff]

/-- Every bit of the word is under the mask of the rows EMIT, EOS and RESET. -/
theorem fullMasked_eq_iff {w : EventWord} {k : BitVec 2} :
    w &&& 0x3FF#10 = k ++ 0x00#8 ↔ kindOf w = k ∧ dataOf w = 0x00#8 := by
  have hmask : w &&& 0x3FF#10 = w := BitVec.and_allOnes
  rw [hmask, eq_append_iff]

/-- What the masks of opcode_table.json test: HUNT_SKIP and HUNT_MARK the kind and the marker bit, TAKE_MSB and TAKE_LSB
the kind, the other rows the whole word. -/
theorem opcodeRows_tests (w : EventWord) :
    (w &&& 0x380#10 = 0x000#10 ↔ kindOf w = 0b00#2 ∧ isMarker (dataOf w) = false) ∧
    (w &&& 0x380#10 = 0x080#10 ↔ kindOf w = 0b00#2 ∧ isMarker (dataOf w) = true) ∧
    (w &&& 0x300#10 = 0x000#10 ↔ kindOf w = 0b00#2) ∧
    (w &&& 0x3FF#10 = 0x200#10 ↔ kindOf w = 0b10#2 ∧ dataOf w = 0x00#8) ∧
    (w &&& 0x3FF#10 = 0x100#10 ↔ kindOf w = 0b01#2 ∧ dataOf w = 0x00#8) ∧
    (w &&& 0x3FF#10 = 0x300#10 ↔ kindOf w = 0b11#2 ∧ dataOf w = 0x00#8) := by
  have hskip : ∀ b : Byte, b &&& 0x80#8 = 0x00#8 ↔ isMarker b = false := by decide
  have hmark : ∀ b : Byte, b &&& 0x80#8 = 0x80#8 ↔ isMarker b = true := by decide
  refine ⟨?_, ?_, ?_, fullMasked_eq_iff (k := 0b10#2), fullMasked_eq_iff (k := 0b01#2),
    fullMasked_eq_iff (k := 0b11#2)⟩
  · exact (masked_eq_iff (m := 0x80#8) (k := 0b00#2) (d := 0x00#8)).trans (and_congr_right' (hskip _))
  · exact (masked_eq_iff (m := 0x80#8) (k := 0b00#2) (d := 0x80#8)).trans (and_congr_right' (hmark _))
  · exact (masked_eq_iff (m := 0x00#8) (k := 0b00#2) (d := 0x00#8)).trans (and_iff_left BitVec.and_zero)

/-- The names of the rows that select a word in a controller state. -/
def rowNames (st : Ctrl) (w : EventWord) : List String :=
  (opcodeRows.filter (fun r => r.selects st w)).map OpcodeRow.mnemonic

/-- No row selects a word that encodes no event. -/
theorem rowNames_of_data_ne_zero {w : EventWord} (hk : kindOf w ≠ 0b00#2) (hd : dataOf w ≠ 0x00#8) (st : Ctrl) :
    rowNames st w = [] := by
  obtain ⟨h1, h2, h3, h4, h5, h6⟩ := opcodeRows_tests w
  simp [rowNames, opcodeRows, OpcodeRow.selects, h1, h2, h3, h4, h5, h6, hk, hd]

/-- The rows that select a BYTE word: by the state alone, and in HUNTING by the marker bit too. -/
theorem rowNames_of_kind_zero {w : EventWord} (hk : kindOf w = 0b00#2) (st : Ctrl) :
    rowNames st w = match st with
      | .hunting => if isMarker (dataOf w) then ["HUNT_MARK"] else ["HUNT_SKIP"]
      | .gotChannel => ["TAKE_MSB"]
      | .gotMsb => ["TAKE_LSB"]
      | .complete => []
      | .eosStop => [] := by
  obtain ⟨h1, h2, h3, h4, h5, h6⟩ := opcodeRows_tests w
  cases hb : isMarker (dataOf w) <;> cases st <;>
    simp [rowNames, opcodeRows, OpcodeRow.selects, h1, h2, h3, h4, h5, h6, hk, hb]

/-- On an event's word the rows select what the opcode map does. -/
theorem rowNames_toWord (st : Ctrl) (e : Event) :
    rowNames st e.toWord = ((select st e).map Instr.mnemonic).toList := by
  cases e with
  | byte b =>
    rw [rowNames_of_kind_zero (w := (Event.byte b).toWord) (kindOf_append _ b)]
    cases st <;> simp only [select, Event.toWord, dataOf_append] <;> cases isMarker b <;> rfl
  | eos => cases st <;> decide
  | take => cases st <;> decide
  | reset => cases st <;> decide

/-- Settles O6: both sides go by the event of the word, and neither takes a word that encodes none. -/
theorem decodeAgreesWithOpcodeTable : Obligations.DecodeAgreesWithOpcodeTable := by
  intro st w
  change rowNames st w = _
  obtain ⟨e, rfl⟩ | ⟨hk, hd⟩ := eq_toWord_or_refused w
  · rw [rowNames_toWord]
    cases hs : select st e with
    | none => rw [decode_toWord_of_none hs]; rfl
    | some i => rw [decode_toWord hs]; rfl
  · rw [rowNames_of_data_ne_zero hk hd, decode_of_data_ne_zero hk hd]

end Sys2Proof.Machine

/-! PROOF. One step of the block (30_encoding.md R54): what a pending word does, which events have no step (R50), what
the control events EOS and RESET do (60_exceptions.md, 70_reset_and_hazards.md), and how an event moves `st`
(10_state.md R21) with the status flags that follow it (R22, R23). -/

namespace Sys2Proof.Machine

/-! ## Steps and pending words -/

/-- With nothing pending the step is a wait. -/
theorem step_of_nil {s : State} (h : s.pending = []) : step s = .next s := by
  simp only [step, fetch_nil h, idle]

/-- A step takes the first pending word. -/
theorem step_of_cons {s : State} {w : EventWord} {rest : List EventWord} (h : s.pending = w :: rest) :
    step s = performWord w { s with pending := rest } := by
  simp only [step, fetch_cons h]

/-- A step that answers a state waited, or took the first pending word and performed the operation it decodes to. -/
theorem step_next {s t : State} (h : step s = .next t) :
    (s.pending = [] ∧ t = s) ∨
    ∃ w rest i, s.pending = w :: rest ∧ decode s.st w = .ok i ∧ exec i { s with pending := rest } = .next t := by
  cases hp : s.pending with
  | nil =>
    cases (step_of_nil hp).symm.trans h
    exact .inl ⟨rfl, rfl⟩
  | cons w rest =>
    obtain ⟨i, hd, ht⟩ := performWord_next ((step_of_cons hp).symm.trans h)
    exact .inr ⟨w, rest, i, rfl, hd, ht⟩

/-- A word that decodes to nothing is refused under the decoder's reason. -/
theorem performWord_of_error {s : State} {w : EventWord} {r : Reject} (h : decode s.st w = .error r) :
    performWord w s = refuse r := by
  simp only [performWord, h]

/-- A step whose first pending word decodes to nothing is refused under the decoder's reason. -/
theorem step_of_error {s : State} {w : EventWord} {rest : List EventWord} {r : Reject} (hp : s.pending = w :: rest)
    (hd : decode s.st w = .error r) : step s = refuse r :=
  (step_of_cons hp).trans (performWord_of_error (s := { s with pending := rest }) hd)

/-- An event that selects no operation is refused as not enabled. -/
theorem applyEvent_of_none {s : State} {e : Event} (h : select s.st e = none) :
    applyEvent e s = .refused (.notEnabled s.st) := by
  simp only [applyEvent, h]

/-- Performing an event's word is applying the event. -/
theorem performWord_toWord (e : Event) (s : State) : performWord e.toWord s = applyEvent e s := by
  cases hs : select s.st e with
  | none => rw [performWord_of_error (decode_toWord_of_none hs), applyEvent_of_none hs, refuse]
  | some i => rw [performWord_of_decode (decode_toWord hs), applyEvent_of_select hs]

/-- A step with an event's word pending first is that event's step on the rest. -/
theorem step_toWord (e : Event) (s : State) (rest : List EventWord) :
    step { s with pending := e.toWord :: rest } = applyEvent e { s with pending := rest } :=
  performWord_toWord e { s with pending := rest }

/-- Settles O2: such a word encodes no event, so no state plays a part. -/
theorem nonZeroDataRefused : Obligations.NonZeroDataRefused := by
  intro w hk hd
  have hdec := decode_of_data_ne_zero hk hd
  exact ⟨hdec, fun s rest => performWord_of_error (s := { s with pending := rest }) (hdec s.st)⟩

/-- Settles O55: a step performs the first pending word, and the word what it decodes to. -/
theorem stepRunsTheDecodedOperation : Obligations.StepRunsTheDecodedOperation :=
  ⟨fun _ _ _ _ hp hd => (step_of_cons hp).trans (performWord_of_decode hd),
    fun _ _ _ _ hp hd => step_of_error hp hd, fun _ _ _ _ hp hd => step_of_error hp hd, fun _ => step_of_nil⟩

/-! ## Pairs that are not enabled -/

/-- Settles O7: the listed pairs are those the opcode map leaves empty, and such a pair is refused at both levels. -/
theorem notEnabledPairsHaveNoStep : Obligations.NotEnabledPairsHaveNoStep := by
  refine ⟨fun s e hpair => ?_, fun st e => select_eq_none_iff.mp⟩
  have hnone := select_eq_none_iff.mpr hpair
  exact ⟨applyEvent_of_none hnone, fun rest => (step_toWord e s rest).trans (applyEvent_of_none hnone)⟩

/-- EOS stands in the reading states. -/
theorem standsIn_eos (st : Ctrl) : Instr.eos.standsIn st = st.reading := by
  cases st <;> rfl

/-- Every meaning first checks that its operation stands in the controller state with a byte its row allows. -/
theorem exec_checks_row (i : Instr) (s : State) :
    ∃ o, exec i s = whenEnabled (i.standsIn s.st && i.wellFormed) s o := by
  cases i with
  | huntSkip b => exact ⟨_, by rw [exec, execHuntSkip, isMarker_eq_bit7, Instr.standsIn, Instr.wellFormed]⟩
  | huntMark b => exact ⟨_, by rw [exec, execHuntMark, isMarker_eq_bit7, Instr.standsIn, Instr.wellFormed]⟩
  | takeMsb b => exact ⟨_, by rw [exec, execTakeMsb, Instr.standsIn, Instr.wellFormed, Bool.and_true]⟩
  | takeLsb b => exact ⟨_, by rw [exec, execTakeLsb, Instr.standsIn, Instr.wellFormed, Bool.and_true]⟩
  | emit => exact ⟨_, by rw [exec, execEmit, Instr.standsIn, Instr.wellFormed, Bool.and_true]⟩
  | eos => exact ⟨_, by rw [exec, execEos, standsIn_eos, Instr.wellFormed, Bool.and_true]⟩
  | reset => exact ⟨_, rfl⟩

/-- Settles O27: each meaning checks its row of the opcode map first. -/
theorem operationsRefuseOutsideTheirRow : Obligations.OperationsRefuseOutsideTheirRow := by
  intro i s hrow
  obtain ⟨o, ho⟩ := exec_checks_row i s
  rw [ho, Bool.and_eq_false_iff.mpr hrow, whenEnabled_false]

/-! ## Flags and status code -/

/-- The reading states are HUNTING, GOT_CHANNEL and GOT_MSB (R14). -/
theorem reading_iff {c : Ctrl} : c.reading = true ↔ c = .hunting ∨ c = .gotChannel ∨ c = .gotMsb := by
  cases c <;> simp [Ctrl.reading]

theorem inReady_iff {s : State} : s.inReady = true ↔ s.st = .hunting ∨ s.st = .gotChannel ∨ s.st = .gotMsb :=
  reading_iff

theorem outValid_iff {s : State} : s.outValid = true ↔ s.st = .complete := beq_iff_eq

theorem eosFlag_iff {s : State} : s.eosFlag = true ↔ s.st = .eosStop := beq_iff_eq

/-- A reading block offers no record. -/
theorem outValid_of_inReady {s : State} (h : s.inReady = true) : s.outValid = false := by
  refine Bool.eq_false_iff.mpr fun hvalid => ?_
  obtain hst | hst | hst := inReady_iff.mp h <;> cases hst.symm.trans (outValid_iff.mp hvalid)

/-- A block that offers a record does not read. -/
theorem inReady_of_outValid {s : State} (h : s.outValid = true) : s.inReady = false :=
  Bool.eq_false_iff.mpr fun hready => Bool.eq_false_iff.mp (outValid_of_inReady hready) h

/-- Settles O9: each flag is a test of `st`, and RESET leaves HUNTING. -/
theorem statusFlagsFollowSt : Obligations.StatusFlagsFollowSt := by
  refine ⟨fun s => ⟨inReady_iff, outValid_iff, eosFlag_iff, fun ⟨hready, hvalid⟩ => ?_, fun ⟨hvalid, heos⟩ => ?_⟩,
    fun s t h => ?_⟩
  · cases (outValid_of_inReady hready).symm.trans hvalid
  · cases (outValid_iff.mp hvalid).symm.trans (eosFlag_iff.mp heos)
  · obtain rfl := execReset_next h
    exact ⟨rfl, rfl, rfl⟩

/-- Settles O10: the reader is checked on each of the five states. -/
theorem statusCodeNamesState : Obligations.StatusCodeNamesState := by
  refine ⟨rfl, rfl, rfl, rfl, rfl, fun s => ?_⟩
  unfold State.stOut
  cases s.st <;> decide

/-- Settles O11: the fields as State.reset writes them, and the ports of HUNTING. -/
theorem resetStateValues : Obligations.ResetStateValues := ⟨rfl, rfl, rfl, rfl, rfl, rfl, rfl, rfl⟩

/-! ## EOS and RESET -/

/-- In a reading state end-of-stream is reported and the partial frame discarded (R77). -/
theorem exec_eos_of_reading {s : State} (hst : s.st.reading = true) :
    exec .eos s = .next { s with sent := s.sent ++ [.eos], chan := none, vhi := none, st := .eosStop } := by
  rw [exec, execEos, hst, whenEnabled_true]
  rfl

/-- In a reading state the event EOS is the operation EOS. -/
theorem select_eos {st : Ctrl} (hst : st.reading = true) : select st .eos = some .eos :=
  select_of_row (i := .eos) rfl ((standsIn_eos st).trans hst)

/-- EOS leaves a reading state for EOS_STOP. -/
theorem exec_eos_flags {s t : State} (h : exec .eos s = .next t) :
    s.outValid = false ∧ t.inReady = false ∧ t.outValid = false ∧ t.eosFlag = true ∧ t.stOut = 4#3 := by
  obtain ⟨hst, rfl⟩ := execEos_next h
  exact ⟨outValid_of_inReady hst, rfl, rfl, rfl, rfl⟩

/-- Settles O24: the word is the event's, and EOS stands in every reading state. -/
theorem eosEntersEosStop : Obligations.EosEntersEosStop := by
  intro s hst
  have hread := reading_iff.mpr hst
  have hdec := decode_toWord (select_eos hread)
  exact ⟨exec_eos_of_reading hread, hdec, fun rest => (step_of_decode hdec rest).trans (exec_eos_of_reading hread),
    fun _ => exec_eos_flags⟩

/-- In every controller state the event RESET is the operation RESET. -/
theorem select_reset (st : Ctrl) : select st .reset = some .reset :=
  select_of_row (i := .reset) rfl rfl

/-- Settles O25: the word is the event's, and RESET stands everywhere. -/
theorem resetClearsRegisters : Obligations.ResetClearsRegisters := by
  intro s
  have hdec := decode_toWord (select_reset s.st)
  refine ⟨rfl, hdec, fun rest => step_of_decode hdec rest, fun t h => ?_⟩
  obtain rfl := execReset_next h
  exact ⟨rfl, rfl, rfl, rfl⟩

/-! ## Moves of `st` -/

/-- An operation that answers a next state stood in the state it started from, with a byte its row allows. -/
theorem row_of_exec_next {i : Instr} {s t : State} (h : exec i s = .next t) :
    i.standsIn s.st = true ∧ i.wellFormed = true := by
  obtain ⟨o, ho⟩ := exec_checks_row i s
  obtain ⟨hrow, -⟩ := whenEnabled_next (ho.symm.trans h)
  exact Bool.and_eq_true_iff.mp hrow

/-- An operation leads to its row's next `st` (R49). -/
theorem exec_next_st {i : Instr} {s t : State} (h : exec i s = .next t) : t.st = i.nextCtrl := by
  cases i with
  | huntSkip b => obtain ⟨hst, -, rfl⟩ := execHuntSkip_next h; exact hst
  | huntMark b => obtain ⟨-, -, rfl⟩ := execHuntMark_next h; rfl
  | takeMsb b => obtain ⟨-, rfl⟩ := execTakeMsb_next h; rfl
  | takeLsb b => obtain ⟨-, _, _, -, -, rfl⟩ := execTakeLsb_next h; rfl
  | emit => obtain ⟨-, _, _, -, -, rfl⟩ := execEmit_next h; rfl
  | eos => obtain ⟨-, rfl⟩ := execEos_next h; rfl
  | reset => obtain rfl := execReset_next h; rfl

/-- Settles O8: each operation's row names its event and the states it goes between; RESET has a step everywhere. -/
theorem eventsMoveStAsListed : Obligations.EventsMoveStAsListed := by
  refine ⟨fun e s t h => ?_, fun s => ⟨.reset, _, applyEvent_of_select (select_reset s.st)⟩⟩
  obtain ⟨i, hsel, ht⟩ := applyEvent_next h
  obtain ⟨rfl, hwf, hst⟩ := row_of_select hsel
  have hnext := exec_next_st ht
  cases i with
  | huntSkip b => exact .inl ⟨eq_of_beq hst, b, rfl, wellFormed_huntSkip.mp hwf, hnext⟩
  | huntMark b => exact .inr (.inl ⟨eq_of_beq hst, b, rfl, hwf, hnext⟩)
  | takeMsb b => exact .inr (.inr (.inl ⟨eq_of_beq hst, ⟨b, rfl⟩, hnext⟩))
  | takeLsb b => exact .inr (.inr (.inr (.inl ⟨eq_of_beq hst, ⟨b, rfl⟩, hnext⟩)))
  | emit => exact .inr (.inr (.inr (.inr (.inl ⟨eq_of_beq hst, rfl, hnext⟩))))
  | eos =>
    have hread := reading_iff.mp ((standsIn_eos s.st).symm.trans hst)
    exact .inr (.inr (.inr (.inr (.inr (.inl ⟨hread, rfl, hnext⟩)))))
  | reset => exact .inr (.inr (.inr (.inr (.inr (.inr ⟨rfl, hnext⟩)))))

end Sys2Proof.Machine

/-! PROOF. What holds along every run: the frame of each operation, the definedness table of 10_state.md R19 with the
faults it rules out (R18), and the way of a record from TAKE_LSB to TAKE (20_memory.md R29, R30, R35). -/

namespace Sys2Proof.Machine

/-! ## Frames -/

/-- Settles O26: read off each operation's one next state. -/
theorem operationsKeepWhatTheyDoNotWrite : Obligations.OperationsKeepWhatTheyDoNotWrite := by
  intro i s t h
  cases i with
  | huntSkip b => obtain ⟨-, -, rfl⟩ := execHuntSkip_next h; exact ⟨rfl, rfl, rfl, rfl, rfl, rfl, rfl⟩
  | huntMark b => obtain ⟨-, -, rfl⟩ := execHuntMark_next h; exact ⟨rfl, rfl, rfl, rfl, rfl⟩
  | takeMsb b => obtain ⟨-, rfl⟩ := execTakeMsb_next h; exact ⟨rfl, rfl, rfl, rfl, rfl⟩
  | takeLsb b => obtain ⟨-, _, _, -, -, rfl⟩ := execTakeLsb_next h; exact ⟨rfl, rfl⟩
  | emit => obtain ⟨-, _, _, -, -, rfl⟩ := execEmit_next h; exact ⟨rfl, rfl, rfl⟩
  | eos => obtain ⟨-, rfl⟩ := execEos_next h; exact ⟨rfl, rfl, rfl⟩
  | reset => obtain rfl := execReset_next h; exact ⟨rfl, rfl⟩

/-- No operation touches the environment's list. -/
theorem exec_next_pending {i : Instr} {s t : State} (h : exec i s = .next t) : t.pending = s.pending :=
  (operationsKeepWhatTheyDoNotWrite i s t h).1

/-! ## The definedness table -/

/-- Every operation keeps R19's table. -/
theorem exec_keeps_defined {i : Instr} {s t : State} (hdef : s.defined = true) (h : exec i s = .next t) :
    t.defined = true := by
  cases i with
  | huntSkip b => obtain ⟨-, -, rfl⟩ := execHuntSkip_next h; exact hdef
  | huntMark b =>
    obtain ⟨hst, -, rfl⟩ := execHuntMark_next h
    simp_all [State.defined]
  | takeMsb b =>
    obtain ⟨hst, rfl⟩ := execTakeMsb_next h
    simp_all [State.defined]
  | takeLsb b =>
    obtain ⟨hst, c, hi, -, -, rfl⟩ := execTakeLsb_next h
    simp [State.defined]
  | emit =>
    obtain ⟨hst, c, v, -, -, rfl⟩ := execEmit_next h
    simp_all [State.defined]
  | eos =>
    obtain ⟨hst, rfl⟩ := execEos_next h
    obtain hst | hst | hst := reading_iff.mp hst <;> simp_all [State.defined]
  | reset =>
    obtain rfl := execReset_next h
    rfl

/-- Every event keeps R19's table. -/
theorem applyEvent_keeps_defined {e : Event} {s t : State} (hdef : s.defined = true) (h : applyEvent e s = .next t) :
    t.defined = true := by
  obtain ⟨i, -, ht⟩ := applyEvent_next h
  exact exec_keeps_defined hdef ht

/-- Settles O13: a wait changes nothing, and the environment's list has no part in the table. -/
theorem stepKeepsDefined : Obligations.StepKeepsDefined := by
  intro s t hdef h
  obtain ⟨-, rfl⟩ | ⟨w, rest, i, -, -, ht⟩ := step_next h
  · exact hdef
  · exact exec_keeps_defined (s := { s with pending := rest }) hdef ht

/-- An edge without an event holds every register. -/
theorem edge_of_none {p : PortsIn} {s : State} (h : selectEvent p s = none) : edge p s = .next s := by
  simp only [edge, h]

/-- An edge applies the event it selects. -/
theorem edge_of_some {p : PortsIn} {s : State} {e : Event} (h : selectEvent p s = some e) :
    edge p s = applyEvent e s := by
  simp only [edge, h]

/-- Every clock edge keeps R19's table. -/
theorem edge_keeps_defined {p : PortsIn} {s t : State} (hdef : s.defined = true) (h : edge p s = .next t) :
    t.defined = true := by
  cases hsel : selectEvent p s with
  | none => cases (edge_of_none hsel).symm.trans h; exact hdef
  | some e => exact applyEvent_keeps_defined hdef ((edge_of_some hsel).symm.trans h)

/-- Settles O12: HUNTING with no register held. -/
theorem definedAtReset : Obligations.DefinedAtReset := rfl

/-- Settles O14: R19's table holds at reset, and every way on keeps it. -/
theorem reachableStatesAreDefined : Obligations.ReachableStatesAreDefined := by
  intro s h
  induction h with
  | launch => exact definedAtReset
  | offer s ws _ ih => exact ih
  | step s t _ h ih => exact stepKeepsDefined s t ih h
  | event s t e _ h ih => exact applyEvent_keeps_defined ih h
  | edge s t p _ h ih => exact edge_keeps_defined ih h

/-! ## Faults -/

/-- Settles O16: the reads are made in this order, each of a register that holds no value. -/
theorem readingNoValueFaults : Obligations.ReadingNoValueFaults := by
  refine ⟨fun s b hst hc => ?_, fun s b c hst hc hv => ?_, fun s hst hc => ?_, fun s c hst hc hv => ?_⟩
  · rw [exec, execTakeLsb, hst, hc, beq_self_eq_true, whenEnabled_true, readReg_none]
  · rw [exec, execTakeLsb, hst, hc, hv, beq_self_eq_true, whenEnabled_true, readReg_some, readReg_none]
  · rw [exec, execEmit, hst, hc, beq_self_eq_true, whenEnabled_true, readReg_none]
  · rw [exec, execEmit, hst, hc, hv, beq_self_eq_true, whenEnabled_true, readReg_some, readReg_none]

/-- Where R19's table is met, COMPLETE holds the record that EMIT reads. -/
theorem State.record_of_defined_complete {s : State} (hdef : s.defined = true) (hst : s.st = .complete) :
    ∃ c v, s.recCh = some c ∧ s.recVal = some v := by
  obtain ⟨-, -, hch, hval⟩ := s.defined_iff.mp hdef
  obtain ⟨c, hc⟩ := Option.isSome_iff_exists.mp (hch.mpr hst)
  obtain ⟨v, hv⟩ := Option.isSome_iff_exists.mp (hval.mpr hst)
  exact ⟨c, v, hc, hv⟩

/-- Where R19's table is met, an operation answers a next state wherever its row lets it run. -/
theorem exec_of_row {i : Instr} {s : State} (hdef : s.defined = true) (hwf : i.wellFormed = true)
    (hst : i.standsIn s.st = true) : ∃ t, exec i s = .next t := by
  cases i with
  | huntSkip b => exact ⟨_, exec_huntSkip_of_hunting (eq_of_beq hst) (wellFormed_huntSkip.mp hwf)⟩
  | huntMark b => exact ⟨_, exec_huntMark_of_hunting (eq_of_beq hst) hwf⟩
  | takeMsb b => exact ⟨_, exec_takeMsb_of_gotChannel b (eq_of_beq hst)⟩
  | takeLsb b =>
    obtain ⟨c, hi, hc, hv⟩ := State.fields_of_defined_gotMsb hdef (eq_of_beq hst)
    exact ⟨_, exec_takeLsb_of_gotMsb b (eq_of_beq hst) hc hv⟩
  | emit =>
    obtain ⟨c, v, hc, hv⟩ := State.record_of_defined_complete hdef (eq_of_beq hst)
    exact ⟨_, exec_emit_of_complete (eq_of_beq hst) hc hv⟩
  | eos => exact ⟨_, exec_eos_of_reading ((standsIn_eos _).symm.trans hst)⟩
  | reset => exact ⟨_, rfl⟩

/-- Where R19's table is met, an event has a step or is refused. -/
theorem applyEvent_ne_fault {s : State} (hdef : s.defined = true) (e : Event) (f : Fault) :
    applyEvent e s ≠ .fault f := by
  cases hsel : select s.st e with
  | none => rw [applyEvent_of_none hsel]; nofun
  | some i =>
    obtain ⟨-, hwf, hst⟩ := row_of_select hsel
    obtain ⟨t, ht⟩ := exec_of_row hdef hwf hst
    rw [applyEvent_of_select hsel, ht]
    nofun

/-- Where R19's table is met, a word has a step or is refused. -/
theorem performWord_ne_fault {s : State} (hdef : s.defined = true) (w : EventWord) (f : Fault) :
    performWord w s ≠ .fault f := by
  obtain ⟨e, rfl⟩ | ⟨hk, hd⟩ := eq_toWord_or_refused w
  · rw [performWord_toWord]
    exact applyEvent_ne_fault hdef e f
  · rw [performWord_of_error (decode_of_data_ne_zero hk hd s.st)]
    nofun

/-- Where R19's table is met, a step is safe. -/
theorem State.safe_of_defined {s : State} (hdef : s.defined = true) : s.safe := by
  intro f
  cases hp : s.pending with
  | nil => rw [step_of_nil hp]; nofun
  | cons w rest =>
    rw [step_of_cons hp]
    exact performWord_ne_fault (s := { s with pending := rest }) hdef w f

/-- Where R19's table is met, a clock edge does not fault. -/
theorem edge_ne_fault {s : State} (hdef : s.defined = true) (p : PortsIn) (f : Fault) : edge p s ≠ .fault f := by
  cases hsel : selectEvent p s with
  | none => rw [edge_of_none hsel]; nofun
  | some e => rw [edge_of_some hsel]; exact applyEvent_ne_fault hdef e f

/-- Settles O15: R19's table holds in the state, and it gives every register that an enabled operation reads. -/
theorem reachableStepsNeverFault : Obligations.ReachableStepsNeverFault := by
  intro s h
  have hdef := reachableStatesAreDefined s h
  exact ⟨State.safe_of_defined hdef, applyEvent_ne_fault hdef, edge_ne_fault hdef⟩

/-! ## Data bytes and the frame boundary -/

/-- Settles O21: TAKE_MSB leaves `chan` as it is, and TAKE_LSB reads it first. -/
theorem takeMsbWithoutChannelGoesOn : Obligations.TakeMsbWithoutChannelGoesOn := by
  intro s b b' hst hc
  obtain ⟨hchan, -⟩ := readingNoValueFaults
  exact ⟨_, exec_takeMsb_of_gotChannel b hst, rfl, hchan _ b' rfl hc⟩

/-- Settles O33: the two data bytes' steps, whatever the byte. -/
theorem dataBytesAreNeverValidated : Obligations.DataBytesAreNeverValidated :=
  ⟨fun _ b hst => ⟨_, applyEvent_byte_of_gotChannel b hst, rfl, rfl, rfl⟩,
    fun _ b _ _ hst hc hv => ⟨_, applyEvent_byte_of_gotMsb b hst hc hv, rfl, rfl, rfl⟩⟩

/-- Settles O45: R19's table has `chan` and `vhi` without value in COMPLETE, and EMIT clears the record. -/
theorem frameBoundaryIsLaunchState : Obligations.FrameBoundaryIsLaunchState := by
  intro s t hdef h
  obtain ⟨hst, c, v, -, -, rfl⟩ := execEmit_next h
  obtain ⟨hchan, hvhi, -, -⟩ := s.defined_iff.mp hdef
  simp only [hst] at hchan hvhi
  exact ⟨rfl, by simpa using hchan, by simpa using hvhi, rfl, rfl⟩

/-! ## Records -/

/-- A TAKE that has a step was EMIT's. -/
theorem applyEvent_take_next {s t : State} (h : applyEvent .take s = .next t) : exec .emit s = .next t := by
  obtain ⟨i, hsel, ht⟩ := applyEvent_next h
  obtain ⟨hev, -, -⟩ := row_of_select hsel
  cases i <;> cases hev
  exact ht

/-- A TAKE that has a step hands out the offered record, clears it and withdraws the offer. -/
theorem applyEvent_take_record {s t : State} (h : applyEvent .take s = .next t) :
    ∃ c v, s.outValid = true ∧ s.recCh = some c ∧ s.recVal = some v ∧ t.sent = s.sent ++ [.record c v] ∧
      t.outValid = false ∧ t.recCh = none ∧ t.recVal = none := by
  obtain ⟨hst, c, v, hc, hv, rfl⟩ := execEmit_next (applyEvent_take_next h)
  exact ⟨c, v, outValid_iff.mpr hst, hc, hv, rfl, rfl, rfl, rfl⟩

/-- Only TAKE_LSB leads to COMPLETE, where a record is offered. -/
theorem exec_offers {i : Instr} {s t : State} (h : exec i s = .next t) (ht : t.outValid = true) :
    ∃ b, i = .takeLsb b := by
  have hnext : i.nextCtrl = .complete := (exec_next_st h).symm.trans (outValid_iff.mp ht)
  cases i <;> cases hnext
  exact ⟨_, rfl⟩

/-- In COMPLETE only TAKE and RESET select an operation. -/
theorem event_of_select_complete {e : Event} {i : Instr} (h : select .complete e = some i) :
    e = .take ∨ e = .reset := by
  cases e with
  | byte b => cases h
  | eos => cases h
  | take => exact .inl rfl
  | reset => exact .inr rfl

/-- Settles O46: EMIT's next state, the one operation that leads to COMPLETE, and COMPLETE's row of the opcode map. -/
theorem pendingRecordIsHeldUntilTaken : Obligations.PendingRecordIsHeldUntilTaken := by
  refine ⟨fun s t h => ?_, fun _ _ _ h _ => exec_offers h, fun e s t hs h => ?_⟩
  · obtain ⟨c, v, hvalid, hc, hv, hsent, hwithdrawn, -, -⟩ := applyEvent_take_record h
    exact ⟨c, v, hvalid, hc, hv, hsent, hwithdrawn⟩
  · obtain ⟨i, hsel, -⟩ := applyEvent_next h
    rw [outValid_iff.mp hs] at hsel
    exact event_of_select_complete hsel

end Sys2Proof.Machine

/-! PROOF. The environment's side: what a run hands out (20_memory.md R35, R36), that neither the outputs so far nor the
events to come are read (R41), and how runs of events, steps of the machine and the runner's report agree (00_scope.md
R11, 30_encoding.md R54, R61). -/

namespace Sys2Proof.Machine

/-! ## Outputs and the environment's lists -/

/-- The state with other events to come and another record of what was handed out. -/
def State.withEnv (s : State) (ws : List EventWord) (os : List Output) : State :=
  { s with pending := ws, sent := os }

/-- States whose registers agree differ in the environment's side alone. -/
theorem State.eq_withEnv_of_sameRegisters {s s' : State} (h : s.sameRegisters s') :
    s' = s.withEnv s'.pending s'.sent := by
  obtain ⟨hst, hchan, hvhi, hch, hval⟩ := h
  simp only [State.withEnv, hst, hchan, hvhi, hch, hval]

theorem State.sameRegisters_withEnv (s : State) (ws : List EventWord) (os : List Output) :
    s.sameRegisters (s.withEnv ws os) :=
  ⟨rfl, rfl, rfl, rfl, rfl⟩

/-- What each event hands out (R13): EOS and TAKE one output each, the other events none. -/
inductive Outputs : Event → List Output → Prop where
  | byte (b : Byte) : Outputs (.byte b) []
  | eos : Outputs .eos [.eos]
  | take (c : Channel) (v : Value) : Outputs .take [.record c v]
  | reset : Outputs .reset []

/-- An operation that hands nothing out adds nothing, whatever was handed out before. -/
theorem exec_next_of_silent {i : Instr} {s t : State} (hout : Outputs i.event []) (hsent : t.sent = s.sent)
    (henv : ∀ ws os, exec i (s.withEnv ws os) = .next (t.withEnv ws os)) :
    ∃ more, t.sent = s.sent ++ more ∧ Outputs i.event more ∧
      ∀ ws os, exec i (s.withEnv ws os) = .next (t.withEnv ws (os ++ more)) :=
  ⟨[], by rw [hsent, List.append_nil], hout, fun ws os => by rw [List.append_nil, henv]⟩

/-- An operation adds its event's outputs, and does the same whatever is pending and whatever was handed out. -/
theorem exec_next_outputs {i : Instr} {s t : State} (h : exec i s = .next t) :
    ∃ more, t.sent = s.sent ++ more ∧ Outputs i.event more ∧
      ∀ ws os, exec i (s.withEnv ws os) = .next (t.withEnv ws (os ++ more)) := by
  cases i with
  | huntSkip b =>
    obtain ⟨hst, hb, rfl⟩ := execHuntSkip_next h
    rw [isMarker_eq_bit7] at hb
    exact exec_next_of_silent (.byte b) rfl fun ws os => exec_huntSkip_of_hunting (s := t.withEnv ws os) hst hb
  | huntMark b =>
    obtain ⟨hst, hb, rfl⟩ := execHuntMark_next h
    rw [isMarker_eq_bit7] at hb
    rw [channelOf_eq_extractLsb']
    exact exec_next_of_silent (.byte b) rfl fun ws os => exec_huntMark_of_hunting (s := s.withEnv ws os) hst hb
  | takeMsb b =>
    obtain ⟨hst, rfl⟩ := execTakeMsb_next h
    rw [highFieldOf_eq_extractLsb']
    exact exec_next_of_silent (.byte b) rfl fun ws os => exec_takeMsb_of_gotChannel (s := s.withEnv ws os) b hst
  | takeLsb b =>
    obtain ⟨hst, c, hi, hc, hv, rfl⟩ := execTakeLsb_next h
    rw [valueOf_eq_append, lowFieldOf_eq_extractLsb']
    exact exec_next_of_silent (.byte b) rfl fun ws os => exec_takeLsb_of_gotMsb (s := s.withEnv ws os) b hst hc hv
  | emit =>
    obtain ⟨hst, c, v, hc, hv, rfl⟩ := execEmit_next h
    exact ⟨[.record c v], rfl, .take c v, fun ws os => exec_emit_of_complete (s := s.withEnv ws os) hst hc hv⟩
  | eos =>
    obtain ⟨hst, rfl⟩ := execEos_next h
    exact ⟨[.eos], rfl, .eos, fun ws os => exec_eos_of_reading (s := s.withEnv ws os) hst⟩
  | reset =>
    obtain rfl := execReset_next h
    exact exec_next_of_silent .reset rfl fun _ _ => rfl

/-- An event adds its outputs, and does the same whatever is pending and whatever was handed out. -/
theorem applyEvent_next_outputs {e : Event} {s t : State} (h : applyEvent e s = .next t) :
    ∃ more, t.sent = s.sent ++ more ∧ Outputs e more ∧
      ∀ ws os, applyEvent e (s.withEnv ws os) = .next (t.withEnv ws (os ++ more)) := by
  obtain ⟨i, hsel, ht⟩ := applyEvent_next h
  obtain ⟨rfl, -, -⟩ := row_of_select hsel
  obtain ⟨more, hsent, hout, henv⟩ := exec_next_outputs ht
  exact ⟨more, hsent, hout, fun ws os => (applyEvent_of_select (s := s.withEnv ws os) hsel).trans (henv ws os)⟩

/-- Only a TAKE hands out a record. -/
theorem Outputs.filter_record {e : Event} {more : List Output} (h : Outputs e more) :
    (more.filter fun o => o ≠ .eos).length = [e].count .take := by
  cases h <;> rfl

/-- Only an EOS hands out `eos`. -/
theorem Outputs.count_eos {e : Event} {more : List Output} (h : Outputs e more) :
    more.count .eos = [e].count .eos := by
  cases h <;> rfl

/-- Settles O47: EMIT's next state, the outputs of the other events, and the pairs without an operation. -/
theorem recordsLeaveByTakeOnly : Obligations.RecordsLeaveByTakeOnly := by
  refine ⟨fun s t h => ?_, fun e s t hne h => ?_, fun s hst => ?_⟩
  · obtain ⟨c, v, -, hc, hv, hsent, -, hch, hval⟩ := applyEvent_take_record h
    exact ⟨c, v, hc, hv, hsent, hch, hval⟩
  · obtain ⟨more, hsent, hout, -⟩ := applyEvent_next_outputs h
    have hnone : (more.filter fun o => o ≠ .eos) = [] := by
      rw [← List.length_eq_zero_iff, hout.filter_record, List.count_singleton, if_neg (by simpa using hne)]
    rw [hsent, List.filter_append, hnone, List.append_nil]
  · refine applyEvent_of_none (select_eq_none_iff.mpr (.inr ⟨fun hc => ?_, rfl⟩))
    obtain h | h := hst <;> cases h.symm.trans hc

/-- A run adds one record for each TAKE and one `eos` for each EOS, and does the same whatever is pending and whatever
was handed out. -/
theorem runEvents_next_outputs {es : List Event} {s t : State} (h : runEvents es s = .next t) :
    ∃ more : List Output, t.sent = s.sent ++ more ∧
      (more.filter fun o => o ≠ .eos).length = es.count .take ∧ more.count .eos = es.count .eos ∧
      ∀ ws os, runEvents es (s.withEnv ws os) = .next (t.withEnv ws (os ++ more)) := by
  induction es generalizing s with
  | nil =>
    cases h
    exact ⟨[], by simp, rfl, rfl, fun ws os => by rw [List.append_nil]; rfl⟩
  | cons e es ih =>
    obtain ⟨u, ha, hr⟩ := runEvents_cons_next h
    obtain ⟨now, hnow, hout, henv⟩ := applyEvent_next_outputs ha
    obtain ⟨later, hlater, hrec, heos, hrun⟩ := ih hr
    refine ⟨now ++ later, ?_, ?_, ?_, fun ws os => ?_⟩
    · rw [hlater, hnow, List.append_assoc]
    · rw [List.filter_append, List.length_append, hout.filter_record, hrec, ← List.count_append, List.singleton_append]
    · rw [List.count_append, hout.count_eos, heos, ← List.count_append, List.singleton_append]
    · rw [runEvents_cons es (henv ws os), hrun, List.append_assoc]

/-- Settles O48: states whose registers agree differ in the two lists alone, which no event reads. -/
theorem outputsAreAFunctionOfEvents : Obligations.OutputsAreAFunctionOfEvents := by
  intro es s t h
  obtain ⟨more, hsent, hrec, heos, henv⟩ := runEvents_next_outputs h
  refine ⟨more, hsent, hrec, heos, fun s' hs' => ⟨_, ?_, t.sameRegisters_withEnv s'.pending (s'.sent ++ more), rfl⟩⟩
  rw [← henv, ← State.eq_withEnv_of_sameRegisters hs']

/-- The event an edge selects goes by `st` alone of the state. -/
theorem selectEvent_congr {s s' : State} (h : s.st = s'.st) (p : PortsIn) : selectEvent p s = selectEvent p s' := by
  have hready : s.inReady = s'.inReady := congrArg Ctrl.reading h
  have hvalid : s.outValid = s'.outValid := congrArg (· == Ctrl.complete) h
  rw [selectEvent, selectEvent, hready, hvalid]

/-- Settles O53: neither the ports nor an edge read the two lists. -/
theorem outputPortsAreMoore : Obligations.OutputPortsAreMoore := by
  refine ⟨fun s s' hs => ?_, fun p s s' t hs h => ?_⟩ <;> rw [State.eq_withEnv_of_sameRegisters hs]
  · rfl
  · have hsel := selectEvent_congr (s := s.withEnv s'.pending s'.sent) (s' := s) rfl p
    cases he : selectEvent p s with
    | none =>
      cases (edge_of_none he).symm.trans h
      exact ⟨_, edge_of_none (hsel.trans he), rfl⟩
    | some e =>
      obtain ⟨more, -, -, henv⟩ := applyEvent_next_outputs ((edge_of_some he).symm.trans h)
      exact ⟨_, (edge_of_some (hsel.trans he)).trans (henv _ _), rfl⟩

/-! ## Runs, steps and the runner -/

/-- An event leaves the environment's list as it is, whatever it holds. -/
theorem applyEvent_with_pending {e : Event} {s t : State} (h : applyEvent e s = .next t) (ws : List EventWord) :
    applyEvent e { s with pending := ws } = .next { t with pending := ws } := by
  obtain ⟨more, hsent, -, henv⟩ := applyEvent_next_outputs h
  have hs := henv ws s.sent
  rw [← hsent] at hs
  exact hs

/-- A run of events is that many steps of the machine with the events' words pending. -/
theorem core_run_of_runEvents {es : List Event} {s t : State} (rest : List EventWord) (h : runEvents es s = .next t) :
    Host.Core.run Sys2Proof.core es.length { s with pending := es.map Event.toWord ++ rest } =
      .next { t with pending := rest } := by
  induction es generalizing s with
  | nil => cases h; exact core_run_zero _
  | cons e es ih =>
    obtain ⟨u, ha, hr⟩ := runEvents_cons_next h
    have hstep := (step_toWord e s (es.map Event.toWord ++ rest)).trans (applyEvent_with_pending ha _)
    rw [List.length_cons, List.map_cons, List.cons_append, core_run_succ es.length hstep]
    exact ih hr

/-- The states of a run: each event's step leads from one to the next. -/
theorem exists_states_of_isRunFrom {r : Trace Event} {s : State} (h : r.isRunFrom s) :
    ∃ states : Nat → State, states 0 = s ∧
      ∀ n e, r.item n = some e → applyEvent e (states n) = .next (states (n + 1)) := by
  choose states hrun using h
  refine ⟨states, ?_, fun n e he => ?_⟩
  · have h0 := hrun 0
    rw [first_zero] at h0
    cases h0
    rfl
  · have hsucc := hrun (n + 1)
    rw [first_succ_of_item he, runEvents_append _ (hrun n)] at hsucc
    obtain ⟨u, ha, hu⟩ := runEvents_cons_next hsucc
    cases hu
    exact ha

/-- States that lead from one event to the next are those of a run; past the end of a finite one nothing is asked. -/
theorem isRunFrom_of_states {r : Trace Event} {states : Nat → State}
    (h : ∀ n e, r.item n = some e → applyEvent e (states n) = .next (states (n + 1))) : r.isRunFrom (states 0) := by
  have hrun (n : Nat) : ∃ t, runEvents (r.first n) (states 0) = .next t ∧ (t = states n ∨ r.item n = none) := by
    induction n with
    | zero => exact ⟨states 0, by rw [first_zero]; rfl, .inl rfl⟩
    | succ n ih =>
      obtain ⟨t, ht, hend⟩ := ih
      cases hi : r.item n with
      | none =>
        obtain ⟨hfirst, hitem⟩ := first_succ_of_no_item hi
        exact ⟨t, by rw [hfirst, ht], .inr hitem⟩
      | some e =>
        obtain rfl := hend.resolve_right (by simp [hi])
        refine ⟨states (n + 1), ?_, .inl rfl⟩
        rw [first_succ_of_item hi, runEvents_append _ ht, runEvents_cons _ (h n e hi)]
        rfl
  exact fun n => (hrun n).imp fun t ht => ht.1

/-- Settles O56: runs line up with steps event by event, and an offered word is the only one pending. -/
theorem stepsRunTheLinedUpEvents : Obligations.StepsRunTheLinedUpEvents := by
  refine ⟨fun es s t rest => core_run_of_runEvents rest, fun r s => ⟨exists_states_of_isRunFrom, ?_⟩, fun e s hp => ?_⟩
  · rintro ⟨states, rfl, h⟩
    exact isRunFrom_of_states h
  · have hoffer : s.offer [e.toWord] = { s with pending := [e.toWord] } := by rw [State.offer, hp, List.nil_append]
    rw [hoffer, step_toWord, ← hp]

/-- The runner runs the words of a run to its end, and goes on there. -/
theorem runner_append {es : List Event} {s t : State} (ws : List EventWord) (h : runEvents es s = .next t) :
    runner (es.map Event.toWord ++ ws) s = { runner ws t with ran := es.length + (runner ws t).ran } := by
  induction es generalizing s with
  | nil => cases h; simp
  | cons e es ih =>
    obtain ⟨u, ha, hr⟩ := runEvents_cons_next h
    have hword := (performWord_toWord e s).trans ha
    simp only [List.map_cons, List.cons_append, runner, hword, ih hr, List.length_cons]
    congr 1
    omega

/-- The runner reports a word whose event is not enabled, and runs nothing after it. -/
theorem runner_of_none {e : Event} {s : State} (ws : List EventWord) (h : select s.st e = none) :
    runner (e.toWord :: ws) s = { ran := 0, final := s, stop := .refused (.notEnabled s.st) } := by
  simp only [runner, (performWord_toWord e s).trans (applyEvent_of_none h)]

/-- Settles O57: the runner follows the run, and stops at its end or at the event that is not enabled there. -/
theorem runnerReportsNotEnabledEvent : Obligations.RunnerReportsNotEnabledEvent := by
  refine ⟨fun es s t h => ?_, fun es e rest s t h hnone => ?_⟩
  · simpa [runner] using runner_append [] h
  · rw [runner_append _ h, runner_of_none rest hnone, Nat.add_zero]

end Sys2Proof.Machine

/-! PROOF. The ports (20_memory.md section 5): the event an edge selects (R40), the edges that hold every register
(R64, R71, R83, R94), when a byte is consumed (R29), and the refinement of cycle-level traces and runs (R42). -/

namespace Sys2Proof.Machine

/-! ## The event at an edge -/

/-- RESET comes first. -/
theorem selectEvent_of_rst {p : PortsIn} (s : State) (hrst : p.rst = true) : selectEvent p s = some .reset := by
  rw [selectEvent, if_pos hrst]

/-- With no RESET a reading block takes end-of-stream. -/
theorem selectEvent_of_inEos {p : PortsIn} {s : State} (hrst : p.rst = false) (hready : s.inReady = true)
    (heos : p.inEos = true) : selectEvent p s = some .eos := by
  simp [selectEvent, hrst, hready, heos]

/-- With neither RESET nor end-of-stream a reading block takes the byte offered. -/
theorem selectEvent_of_inValid {p : PortsIn} {s : State} (hrst : p.rst = false) (hready : s.inReady = true)
    (heos : p.inEos = false) (hvalid : p.inValid = true) : selectEvent p s = some (.byte p.inData) := by
  simp [selectEvent, hrst, hready, heos, hvalid]

/-- With no RESET a block with a record pending hands it to a ready consumer. -/
theorem selectEvent_of_outReady {p : PortsIn} {s : State} (hrst : p.rst = false) (hvalid : s.outValid = true)
    (hout : p.outReady = true) : selectEvent p s = some .take := by
  simp [selectEvent, hrst, inReady_of_outValid hvalid, hvalid, hout]

/-- With nothing offered that the block would take there is no event. -/
theorem selectEvent_of_idle {p : PortsIn} {s : State} (hrst : p.rst = false)
    (hin : s.inReady = true → p.inEos = false ∧ p.inValid = false) (hout : s.outValid = true → p.outReady = false) :
    selectEvent p s = none := by
  cases hready : s.inReady with
  | true =>
    obtain ⟨heos, hvalid⟩ := hin hready
    simp [selectEvent, hrst, hready, heos, hvalid, outValid_of_inReady hready]
  | false =>
    cases hoffer : s.outValid with
    | true => simp [selectEvent, hrst, hready, hoffer, hout hoffer]
    | false => simp [selectEvent, hrst, hready, hoffer]

/-- Settles O52: one clause for each place in R40's order. -/
theorem portEventPriority : Obligations.PortEventPriority :=
  ⟨fun _ => selectEvent_of_rst, fun _ _ => selectEvent_of_inEos, fun _ _ => selectEvent_of_inValid,
    fun _ _ => selectEvent_of_outReady, fun _ _ hrst hin hout =>
      have hnone := selectEvent_of_idle hrst hin hout
      ⟨hnone, edge_of_none hnone⟩⟩

/-- A BYTE event at an edge is the byte offered to a reading block, with neither RESET nor end-of-stream. -/
theorem selectEvent_eq_byte_iff {p : PortsIn} {s : State} {b : Byte} : selectEvent p s = some (.byte b) ↔
    s.inReady = true ∧ p.inValid = true ∧ p.rst = false ∧ p.inEos = false ∧ b = p.inData := by
  constructor
  · intro h
    unfold selectEvent at h
    split_ifs at h with hrst heos hbyte htake <;> cases h
    obtain ⟨hready, hvalid⟩ := Bool.and_eq_true_iff.mp hbyte
    exact ⟨hready, hvalid, Bool.eq_false_iff.mpr hrst, by simpa [hready] using heos, rfl⟩
  · rintro ⟨hready, hvalid, hrst, heos, rfl⟩
    exact selectEvent_of_inValid hrst hready heos hvalid

/-- A byte is taken exactly in the reading states. -/
theorem isSome_select_byte (st : Ctrl) (b : Byte) : (select st (.byte b)).isSome = st.reading := by
  cases st <;> rfl

/-- End-of-stream is taken exactly in the reading states. -/
theorem isSome_select_eos (st : Ctrl) : (select st .eos).isSome = st.reading := by
  cases st <;> rfl

/-- A record is taken exactly in COMPLETE. -/
theorem isSome_select_take (st : Ctrl) : (select st .take).isSome = (st == .complete) := by
  cases st <;> rfl

/-- An event that answers a next state is enabled. -/
theorem isSome_select_of_next {e : Event} {s t : State} (h : applyEvent e s = .next t) :
    (select s.st e).isSome = true := by
  obtain ⟨i, hsel, -⟩ := applyEvent_next h
  rw [hsel, Option.isSome_some]

/-- Settles O49: a step performs the first word on the rest of the list, and the reading states are the ones that take
a byte, by their events and at the ports. -/
theorem bytesAreConsumedInReadingStatesOnly : Obligations.BytesAreConsumedInReadingStatesOnly := by
  refine ⟨fun s t w rest hp h => ?_, fun s t b h => ?_, fun s b rest hst => ?_, fun p s b => selectEvent_eq_byte_iff⟩
  · obtain ⟨i, -, ht⟩ := performWord_next ((step_of_cons hp).symm.trans h)
    exact exec_next_pending ht
  · exact reading_iff.mp ((isSome_select_byte s.st b).symm.trans (isSome_select_of_next h))
  · have hnone := select_eq_none_iff.mpr (.inl ⟨hst, .inr ⟨b, rfl⟩⟩)
    exact (step_toWord (.byte b) s rest).trans (applyEvent_of_none hnone)

/-! ## Waits -/

/-- Edges without an event hold every register, however many. -/
theorem runEdges_of_idle {ps : List PortsIn} {s : State} (h : ∀ p ∈ ps, selectEvent p s = none) :
    runEdges ps s = .next s := by
  induction ps with
  | nil => rfl
  | cons p ps ih =>
    obtain ⟨hp, hps⟩ := List.forall_mem_cons.mp h
    simp only [runEdges, edge_of_none hp, ih hps]

/-- With nothing pending the machine waits, however many steps. -/
theorem core_run_of_nil {s : State} (k : Nat) (h : s.pending = []) : Host.Core.run Sys2Proof.core k s = .next s := by
  induction k with
  | zero => exact core_run_zero s
  | succ k ih => rw [core_run_succ k (step_of_nil h), ih]

/-- Settles O50: no step has an event to take, and no edge selects one. -/
theorem waitingKeepsTheState : Obligations.WaitingKeepsTheState := by
  refine ⟨fun _ k => core_run_of_nil k, fun s ps hready hidle => runEdges_of_idle fun p hp => ?_,
    fun s ps hvalid hidle => runEdges_of_idle fun p hp => ?_⟩
  · obtain ⟨hrst, hin, heos⟩ := hidle p hp
    exact selectEvent_of_idle hrst (fun _ => ⟨heos, hin⟩)
      fun hvalid => absurd (hready.symm.trans (inReady_of_outValid hvalid)) nofun
  · obtain ⟨hrst, hout⟩ := hidle p hp
    exact selectEvent_of_idle hrst (fun hready => absurd (hvalid.symm.trans (outValid_of_inReady hready)) nofun)
      fun _ => hout

/-- Settles O51: RESET is the one operation that stands in EOS_STOP, and without `rst` an edge there selects nothing. -/
theorem eosStopIsLeftByResetOnly : Obligations.EosStopIsLeftByResetOnly := by
  refine ⟨fun i s t hst h => ?_, fun e s hst hne => ?_, fun s ps hst hrst => runEdges_of_idle fun p hp => ?_⟩
  · obtain ⟨hrow, -⟩ := row_of_exec_next h
    rw [hst] at hrow
    cases i <;> cases hrow
    obtain rfl := execReset_next h
    exact ⟨rfl, rfl, rfl, rfl, rfl, rfl⟩
  · rw [applyEvent_of_none, hst]
    rw [hst]
    cases e with
    | byte b => rfl
    | eos => rfl
    | take => rfl
    | reset => exact absurd rfl hne
  · obtain ⟨hready, hvalid, -, -⟩ := State.flags_of_st hst
    exact selectEvent_of_idle (hrst p hp) (fun h => nomatch hready.symm.trans h) fun h => nomatch hvalid.symm.trans h

/-! ## Refinement -/

/-- An event that an edge selects is enabled. -/
theorem isSome_select_of_selectEvent {p : PortsIn} {s : State} {e : Event} (h : selectEvent p s = some e) :
    (select s.st e).isSome = true := by
  unfold selectEvent at h
  split_ifs at h with hrst heos hbyte htake <;> cases h
  · rw [select_reset, Option.isSome_some]
  · exact (isSome_select_eos s.st).trans (Bool.and_eq_true_iff.mp heos).1
  · exact (isSome_select_byte s.st p.inData).trans (Bool.and_eq_true_iff.mp hbyte).1
  · exact (isSome_select_take s.st).trans (Bool.and_eq_true_iff.mp htake).1

/-- The ports driven for an enabled event select it. -/
theorem selectEvent_drive {s : State} {e : Event} (h : (select s.st e).isSome = true) :
    selectEvent (drive e) s = some e := by
  cases e with
  | byte b => exact selectEvent_of_inValid rfl ((isSome_select_byte s.st b).symm.trans h) rfl rfl
  | eos => exact selectEvent_of_inEos rfl ((isSome_select_eos s.st).symm.trans h) rfl
  | take => exact selectEvent_of_outReady rfl ((isSome_select_take s.st).symm.trans h) rfl
  | reset => exact selectEvent_of_rst s rfl

/-- A trace ends as the run of its projection does. -/
theorem runEdges_eq_runEvents (ps : List PortsIn) (s : State) : runEdges ps s = runEvents (projectEdges ps s) s := by
  induction ps generalizing s with
  | nil => rfl
  | cons p ps ih =>
    cases hsel : selectEvent p s with
    | none => simp only [runEdges, projectEdges, edge_of_none hsel, hsel, ih]
    | some e =>
      simp only [runEdges, projectEdges, edge_of_some hsel, hsel]
      cases ha : applyEvent e s with
      | next t => simp only [runEvents, ha, ih]
      | fault f => simp only [runEvents, ha]
      | refused r => simp only [runEvents, ha]

/-- A trace that ends has a first edge that leads on. -/
theorem runEdges_cons_next {p : PortsIn} {ps : List PortsIn} {s t : State} (h : runEdges (p :: ps) s = .next t) :
    ∃ u, edge p s = .next u ∧ runEdges ps u = .next t := by
  unfold runEdges at h
  cases he : edge p s with
  | next u => rw [he] at h; exact ⟨u, rfl, h⟩
  | fault f => rw [he] at h; cases h
  | refused r => rw [he] at h; cases h

/-- An edge that leads on projects its event, if any, before the edges after it. -/
theorem projectEdges_cons {p : PortsIn} {s u : State} (ps : List PortsIn) (h : edge p s = .next u) :
    projectEdges (p :: ps) s = (selectEvent p s).toList ++ projectEdges ps u := by
  cases hsel : selectEvent p s with
  | none =>
    cases (edge_of_none hsel).symm.trans h
    simp only [projectEdges, hsel, Option.toList_none, List.nil_append]
  | some e =>
    have ha := (edge_of_some hsel).symm.trans h
    simp only [projectEdges, hsel, ha, Option.toList_some, List.singleton_append]

/-- A longer trace only adds events. -/
theorem projectEdges_append {ps : List PortsIn} {s t : State} (more : List PortsIn) (h : runEdges ps s = .next t) :
    projectEdges (ps ++ more) s = projectEdges ps s ++ projectEdges more t := by
  induction ps generalizing s with
  | nil => cases h; rfl
  | cons p ps ih =>
    obtain ⟨u, he, hr⟩ := runEdges_cons_next h
    rw [List.cons_append, projectEdges_cons _ he, projectEdges_cons _ he, ih hr, List.append_assoc]

/-- A run that ends is the projection of the ports driven for its events. -/
theorem projectEdges_drive {es : List Event} {s t : State} (h : runEvents es s = .next t) :
    projectEdges (es.map drive) s = es := by
  induction es generalizing s with
  | nil => rfl
  | cons e es ih =>
    obtain ⟨u, ha, hr⟩ := runEvents_cons_next h
    have hsel := selectEvent_drive (isSome_select_of_next ha)
    rw [List.map_cons, projectEdges_cons _ ((edge_of_some hsel).trans ha), hsel, ih hr]
    rfl

/-- The ports driven for a run's events lead where the run does. -/
theorem runEdges_drive {es : List Event} {s t : State} (h : runEvents es s = .next t) :
    runEdges (es.map drive) s = runEvents es s := by
  rw [runEdges_eq_runEvents, projectEdges_drive h]

/-- Settles O54: a trace runs as its projection, and driving the ports for each event of a run, finite or infinite,
realises it. -/
theorem cycleTraceRefinesEventRun : Obligations.CycleTraceRefinesEventRun := by
  refine ⟨runEdges_eq_runEvents, fun _ _ _ => isSome_select_of_selectEvent,
    fun es s t h => ⟨es.map drive, projectEdges_drive h, (runEdges_drive h).trans h⟩,
    fun _ more _ _ => projectEdges_append more, fun ev s hrun => ⟨fun k => drive (ev k), fun n => ?_⟩⟩
  obtain ⟨t, ht⟩ := hrun n
  rw [first_map]
  exact ⟨projectEdges_drive ht, runEdges_drive ht⟩

end Sys2Proof.Machine

/-! PROOF. Frames and streams: the stream grammar and its scan (30_encoding.md R44), what a frame, any junk before it
and a cut-short tail do to the block (40_synchronizer.md R65, R67, 41_frame_assembly.md R74, R75), and what is lost with a
byte or a corrupted bit (70_reset_and_hazards.md R91 to R93). -/

namespace Sys2Proof.Machine

/-! ## The stream grammar -/

/-- R44's frame with the junk before it: junk bytes have bit 7 = 0 and the marker has bit 7 = 1. -/
def Framed.WellFormed (f : Framed) : Prop :=
  (∀ b ∈ f.junk, b.getLsbD 7 = false) ∧ f.marker.getLsbD 7 = true

/-- R44's grammar read as a proposition. -/
theorem Parsed.ok_iff (p : Parsed) : p.ok = true ↔
    (∀ f ∈ p.frames, f.WellFormed) ∧ (∀ b ∈ p.junk, b.getLsbD 7 = false) ∧ tailOk p.tail = true := by
  simp only [Parsed.ok, isMarker_eq_bit7, Framed.WellFormed, Bool.and_eq_true, List.all_eq_true, Bool.not_eq_true',
    and_assoc]

/-- The scan passes over a byte with bit 7 = 0. -/
theorem scan_junk {b : Byte} (bs : List Byte) (hb : b.getLsbD 7 = false) : scan (b :: bs) = (scan bs).addJunk b := by
  have hb' : ¬ isMarker b = true := by rw [isMarker_eq_bit7, hb]; nofun
  obtain _ | ⟨d1, _ | ⟨d2, rest⟩⟩ := bs <;> exact if_neg hb'

/-- The scan takes a marker and the two bytes after it as a frame. -/
theorem scan_frame {m : Byte} (d1 d2 : Byte) (rest : List Byte) (hm : m.getLsbD 7 = true) :
    scan (m :: d1 :: d2 :: rest) = (scan rest).addFrame m d1 d2 :=
  if_pos ((isMarker_eq_bit7 m).trans hm)

/-- The scan leaves a cut-short frame as the tail. -/
theorem scan_tail {tail : List Byte} (h : tailOk tail = true) :
    scan tail = { frames := [], junk := [], tail := tail } := by
  match tail, h with
  | [], _ => rfl
  | [m], h => exact if_pos h
  | [m, d], h => exact if_pos h

/-- The scan finds the junk and the tail that end a stream. -/
theorem scan_junk_tail {junk tail : List Byte} (hjunk : ∀ b ∈ junk, b.getLsbD 7 = false) (htail : tailOk tail = true) :
    scan (junk ++ tail) = { frames := [], junk := junk, tail := tail } := by
  induction junk with
  | nil => exact scan_tail htail
  | cons b bs ih =>
    obtain ⟨hb, hbs⟩ := List.forall_mem_cons.mp hjunk
    rw [List.cons_append, scan_junk _ hb, ih hbs, Parsed.addJunk]

/-- One more frame with its junk in front of a division. -/
def Parsed.addFramed (f : Framed) (p : Parsed) : Parsed := { p with frames := f :: p.frames }

/-- The scan finds a frame behind its junk. -/
theorem scan_framed {f : Framed} (rest : List Byte) (hf : f.WellFormed) :
    scan (f.bytes ++ rest) = (scan rest).addFramed f := by
  obtain ⟨junk, m, d1, d2⟩ := f
  obtain ⟨hjunk, hm⟩ := hf
  induction junk with
  | nil => exact scan_frame d1 d2 rest hm
  | cons b bs ih =>
    obtain ⟨hb, hbs⟩ := List.forall_mem_cons.mp hjunk
    exact (scan_junk _ hb).trans (congrArg (Parsed.addJunk b) (ih hbs hm))

/-- The scan of what a division spells is that division. -/
theorem scan_bytes {p : Parsed} (h : p.ok = true) : scan p.bytes = p := by
  obtain ⟨frames, junk, tail⟩ := p
  obtain ⟨hframes, hjunk, htail⟩ := (Parsed.ok_iff _).mp h
  clear h
  induction frames with
  | nil => exact scan_junk_tail hjunk htail
  | cons f fs ih =>
    obtain ⟨hf, hfs⟩ := List.forall_mem_cons.mp hframes
    rw [Parsed.bytes, List.flatMap_cons, List.append_assoc, List.append_assoc, scan_framed _ hf, ← List.append_assoc]
    exact congrArg (Parsed.addFramed f) (ih hfs hjunk htail)

/-- One more junk byte keeps a division valid and stands in front of its bytes. -/
theorem Parsed.addJunk_spells {b : Byte} {p : Parsed} {bs : List Byte} (hb : b.getLsbD 7 = false)
    (h : p.ok = true ∧ p.bytes = bs) : (p.addJunk b).ok = true ∧ (p.addJunk b).bytes = b :: bs := by
  obtain ⟨hok, rfl⟩ := h
  obtain ⟨frames, junk, tail⟩ := p
  rw [Parsed.ok_iff] at hok ⊢
  obtain ⟨hframes, hjunk, htail⟩ := hok
  cases frames with
  | nil => exact ⟨⟨hframes, List.forall_mem_cons.mpr ⟨hb, hjunk⟩, htail⟩, rfl⟩
  | cons f fs =>
    obtain ⟨⟨hfjunk, hm⟩, hfs⟩ := List.forall_mem_cons.mp hframes
    exact ⟨⟨List.forall_mem_cons.mpr ⟨⟨List.forall_mem_cons.mpr ⟨hb, hfjunk⟩, hm⟩, hfs⟩, hjunk, htail⟩, rfl⟩

/-- One more frame keeps a division valid and stands in front of its bytes. -/
theorem Parsed.addFrame_spells {m : Byte} {p : Parsed} {bs : List Byte} (d1 d2 : Byte) (hm : m.getLsbD 7 = true)
    (h : p.ok = true ∧ p.bytes = bs) :
    (p.addFrame m d1 d2).ok = true ∧ (p.addFrame m d1 d2).bytes = m :: d1 :: d2 :: bs := by
  obtain ⟨hok, rfl⟩ := h
  rw [Parsed.ok_iff] at hok ⊢
  obtain ⟨hframes, hjunk, htail⟩ := hok
  exact ⟨⟨List.forall_mem_cons.mpr ⟨⟨nofun, hm⟩, hframes⟩, hjunk, htail⟩, rfl⟩

/-- A cut-short frame is a valid division by itself. -/
theorem scan_tail_spells {tail : List Byte} (h : tailOk tail = true) :
    (scan tail).ok = true ∧ (scan tail).bytes = tail := by
  rw [scan_tail h]
  exact ⟨(Parsed.ok_iff _).mpr ⟨nofun, nofun, h⟩, rfl⟩

/-- The scan divides every byte sequence, and the division spells it. -/
theorem scan_spells (bs : List Byte) : (scan bs).ok = true ∧ (scan bs).bytes = bs := by
  match bs with
  | [] => exact ⟨rfl, rfl⟩
  | b :: rest =>
    cases hb : b.getLsbD 7 with
    | false =>
      rw [scan_junk rest hb]
      exact Parsed.addJunk_spells hb (scan_spells rest)
    | true =>
      have hmark : isMarker b = true := (isMarker_eq_bit7 b).trans hb
      match rest with
      | [] => exact scan_tail_spells (tail := [b]) hmark
      | [d] => exact scan_tail_spells (tail := [b, d]) hmark
      | d1 :: d2 :: rest =>
        rw [scan_frame d1 d2 rest hb]
        exact Parsed.addFrame_spells d1 d2 hb (scan_spells rest)
termination_by bs.length

/-- Settles O39: the scan divides the sequence, and scanning what any division spells gives that division back. -/
theorem streamGrammarIsUnambiguous : Obligations.StreamGrammarIsUnambiguous := by
  intro bs
  obtain ⟨hok, hbytes⟩ := scan_spells bs
  exact ⟨hok, hbytes, fun p hp hpbytes => by rw [← hpbytes, scan_bytes hp]⟩

/-! ## Frames from the launch registers -/

/-- The three bytes of a frame, in HUNTING, lead to COMPLETE with the record of their fields. -/
theorem runEvents_frame {s : State} {m : Byte} (d1 d2 : Byte) (hst : s.st = .hunting) (hm : m.getLsbD 7 = true) :
    runEvents [.byte m, .byte d1, .byte d2] s =
      .next { s with recCh := some (channelOf m), recVal := some (valueOf (highFieldOf d1) (lowFieldOf d2)),
                     chan := none, vhi := none, st := .complete } := by
  rw [runEvents_cons _ (applyEvent_marker hst hm)]
  exact runEvents_dataBytes d1 d2 rfl rfl

/-- The launch registers do not include what was handed out. -/
theorem State.atLaunch_with_sent {s : State} (hs : s.atLaunch) (os : List Output) :
    { s with sent := os }.atLaunch := hs

/-- A frame with its junk, read and taken from the launch registers, hands out its record and leaves them (R65, R75). -/
theorem runEvents_framed {f : Framed} {s : State} (hs : s.atLaunch) (hf : f.WellFormed) :
    runEvents f.events s = .next { s with sent := s.sent ++ [f.record] } := by
  obtain ⟨hst, hchan, hvhi, hch, hval⟩ := hs
  obtain ⟨hjunk, hm⟩ := hf
  have hbytes := (runEvents_junk_append [f.marker, f.msb, f.lsb] hst hjunk).trans (runEvents_frame f.msb f.lsb hst hm)
  rw [Framed.events, Framed.bytes, runEvents_append _ hbytes,
    runEvents_cons [] (applyEvent_of_select rfl |>.trans (exec_emit_of_complete rfl rfl rfl))]
  simp only [runEvents, hchan, hvhi, hch, hval, hst, Framed.record]

/-- Frames read and taken one after another from the launch registers hand out their records in order (R36). -/
theorem runEvents_frames {fs : List Framed} {s : State} (hs : s.atLaunch) (hfs : ∀ f ∈ fs, f.WellFormed) :
    runEvents (fs.flatMap Framed.events) s = .next { s with sent := s.sent ++ fs.map Framed.record } := by
  induction fs generalizing s with
  | nil => simp [runEvents]
  | cons f fs ih =>
    obtain ⟨hf, hfs⟩ := List.forall_mem_cons.mp hfs
    rw [List.flatMap_cons, runEvents_append _ (runEvents_framed hs hf), ih (State.atLaunch_with_sent hs _) hfs,
      List.map_cons, List.append_assoc, List.singleton_append]

/-- Where the bytes of a cut-short frame leave a hunting block. -/
def State.afterTail (s : State) : List Byte → State
  | [] => s
  | [m] => { s with chan := some (channelOf m), st := .gotChannel }
  | m :: d :: _ => { s with chan := some (channelOf m), vhi := some (highFieldOf d), st := .gotMsb }

/-- A cut-short frame leads to the state after its one or two bytes. -/
theorem runEvents_tail {s : State} {tail : List Byte} (hst : s.st = .hunting) (h : tailOk tail = true) :
    runEvents (tail.map .byte) s = .next (s.afterTail tail) := by
  match tail, h with
  | [], _ => rfl
  | [m], h =>
    have hm : m.getLsbD 7 = true := (isMarker_eq_bit7 m).symm.trans h
    exact runEvents_cons [] (applyEvent_marker hst hm)
  | [m, d], h =>
    have hm : m.getLsbD 7 = true := (isMarker_eq_bit7 m).symm.trans h
    exact (runEvents_cons _ (applyEvent_marker hst hm)).trans
      (runEvents_cons [] (applyEvent_byte_of_gotChannel d rfl))

/-- Junk and a cut-short frame lead where the cut-short frame does. -/
theorem runEvents_junk_tail {s : State} {junk tail : List Byte} (hst : s.st = .hunting)
    (hjunk : ∀ b ∈ junk, b.getLsbD 7 = false) (h : tailOk tail = true) :
    runEvents ((junk ++ tail).map .byte) s = .next (s.afterTail tail) :=
  (runEvents_junk_append tail hst hjunk).trans (runEvents_tail hst h)

/-- The state after a cut-short frame has the controller state of its length, and nothing was handed out. -/
theorem State.afterTail_sent_st (s : State) (tail : List Byte) (hst : s.st = .hunting) :
    (s.afterTail tail).sent = s.sent ∧
    (s.afterTail tail).st = (match tail with
      | [] => .hunting
      | [_] => .gotChannel
      | _ => .gotMsb) := by
  match tail with
  | [] => exact ⟨rfl, hst⟩
  | [m] => exact ⟨rfl, rfl⟩
  | m :: d :: _ => exact ⟨rfl, rfl⟩

/-- Settles O40: the division's frames run one after another from the launch registers, and its junk and tail after
them. -/
theorem streamEmitsItsFramesRecords : Obligations.StreamEmitsItsFramesRecords := by
  intro s bs hs
  obtain ⟨hframes, hjunk, htail⟩ := (Parsed.ok_iff _).mp (scan_spells bs).1
  obtain ⟨hst, -⟩ := State.atLaunch_with_sent hs (s.sent ++ (scan bs).frames.map Framed.record)
  refine ⟨_, ?_, State.afterTail_sent_st _ _ hst⟩
  rw [Parsed.events, runEvents_append _ (runEvents_frames hs hframes)]
  exact runEvents_junk_tail hst hjunk htail

/-! ## read_frame -/

/-- One more junk byte in front of a frame. -/
theorem Framed.wellFormed_cons {b : Byte} {f : Framed} (hb : b.getLsbD 7 = false) (hf : f.WellFormed) :
    { f with junk := b :: f.junk }.WellFormed :=
  ⟨List.forall_mem_cons.mpr ⟨hb, hf.1⟩, hf.2⟩

/-- A call that returns has read a frame and the junk before it, and left the rest. -/
theorem readFrame_some {bs left : List Byte} {f : Framed} (h : readFrame bs = some (f, left)) :
    f.WellFormed ∧ f.bytes ++ left = bs := by
  fun_induction readFrame bs generalizing f with
  | case1 => cases h
  | case2 m hm d1 d2 left' =>
    cases h
    exact ⟨⟨nofun, (isMarker_eq_bit7 m).symm.trans hm⟩, rfl⟩
  | case3 => cases h
  | case4 => cases h
  | case5 b rest hb g left' hg ih =>
    cases h
    obtain ⟨hwf, hbytes⟩ := ih hg
    rw [isMarker_eq_bit7, Bool.not_eq_true] at hb
    exact ⟨Framed.wellFormed_cons hb hwf, congrArg (b :: ·) hbytes⟩
  | case6 => cases h

/-- A call cut short has read junk and a cut-short frame. -/
theorem readFrame_none {bs : List Byte} (h : readFrame bs = none) :
    ∃ junk tail, bs = junk ++ tail ∧ (∀ b ∈ junk, b.getLsbD 7 = false) ∧ tailOk tail = true := by
  fun_induction readFrame bs with
  | case1 => exact ⟨[], [], rfl, nofun, rfl⟩
  | case2 => cases h
  | case3 m hm d => exact ⟨[], [m, d], rfl, nofun, hm⟩
  | case4 m hm => exact ⟨[], [m], rfl, nofun, hm⟩
  | case5 => cases h
  | case6 b rest hb hnone ih =>
    obtain ⟨junk, tail, rfl, hjunk, htail⟩ := ih hnone
    rw [isMarker_eq_bit7, Bool.not_eq_true] at hb
    exact ⟨b :: junk, tail, rfl, List.forall_mem_cons.mpr ⟨hb, hjunk⟩, htail⟩

/-- End-of-stream in the middle of a frame leaves the launch registers but for EOS_STOP. -/
theorem applyEvent_eos_afterTail {s : State} (hs : s.atLaunch) (tail : List Byte) :
    applyEvent .eos (s.afterTail tail) = .next { s with sent := s.sent ++ [.eos], st := .eosStop } := by
  obtain ⟨hst, hchan, hvhi, -, -⟩ := hs
  have hread : (s.afterTail tail).st.reading = true := by
    obtain ⟨-, htail⟩ := State.afterTail_sent_st s tail hst
    rw [htail]
    split <;> rfl
  rw [applyEvent_of_select (select_eos hread), exec_eos_of_reading hread]
  match tail with
  | [] => simp only [State.afterTail, hchan, hvhi]
  | [m] => simp only [State.afterTail, hvhi, hchan]
  | m :: d :: _ => simp only [State.afterTail, hchan, hvhi]

/-- Settles O41: a call that returns reads one frame with its junk, and one cut short reads junk and a cut-short
frame. -/
theorem readFrameIsOneRunSegment : Obligations.ReadFrameIsOneRunSegment := by
  refine ⟨fun s bs left f hs h => ?_, fun s bs hs h => ?_⟩
  · obtain ⟨hf, hbytes⟩ := readFrame_some h
    exact ⟨hbytes, runEvents_framed hs hf⟩
  · obtain ⟨junk, tail, rfl, hjunk, htail⟩ := readFrame_none h
    rw [runEvents_append _ (runEvents_junk_tail hs.1 hjunk htail)]
    exact runEvents_cons [] (applyEvent_eos_afterTail hs tail)

/-! ## Junk, round trip and lost bytes -/

/-- The record of a frame by its bit fields. -/
theorem Framed.record_eq (f : Framed) : f.record =
    .record (f.marker.extractLsb' 1 6) (f.msb.extractLsb' 1 4 ++ f.lsb.extractLsb' 1 6) := by
  rw [Framed.record, channelOf_eq_extractLsb', valueOf_dataBytes]

/-- A frame read and taken from the launch registers hands out the record of its bit fields. -/
theorem runEvents_framed_fields {s : State} (f : Framed) (hs : s.atLaunch) (hjunk : ∀ b ∈ f.junk, b.getLsbD 7 = false)
    (hm : f.marker.getLsbD 7 = true) :
    runEvents f.events s = .next { s with sent := s.sent ++
      [.record (f.marker.extractLsb' 1 6) (f.msb.extractLsb' 1 4 ++ f.lsb.extractLsb' 1 6)] } := by
  rw [runEvents_framed hs ⟨hjunk, hm⟩, Framed.record_eq]

/-- Settles O35: the junk keeps the state the frame starts from, and the frame with its junk hands out its record. -/
theorem resynchronizationAfterAnyJunk : Obligations.ResynchronizationAfterAnyJunk := by
  intro s junk m d1 d2 hs hjunk hm
  exact ⟨runEvents_junk_append _ hs.1 hjunk, runEvents_framed_fields ⟨junk, m, d1, d2⟩ hs hjunk hm⟩

/-- Settles O36: the run keeps the state, and its words are that many steps; so does every initial part of an endless
one. -/
theorem endlessHuntingEmitsNothing : Obligations.EndlessHuntingEmitsNothing := by
  refine ⟨fun s bs hst hbs => ?_, fun s bs hst hbs => ?_⟩
  · have hrun := runEvents_junk hst hbs
    have hcore := core_run_of_runEvents [] hrun
    rw [List.append_nil, List.map_map, List.length_map] at hcore
    exact ⟨hrun, hcore⟩
  · have hrun (n : Nat) : runEvents ((Trace.infinite fun k => Event.byte (bs k)).first n) s = .next s := by
      rw [first_map]
      exact runEvents_junk hst (List.forall_mem_map.mpr fun k _ => hbs k)
    exact ⟨fun n => ⟨s, hrun n⟩, hrun⟩

/-- The fields of the reference encoder's frame are the channel and the value. -/
theorem record_encodeFrame (ch : Channel) (val : Value) :
    Framed.record ⟨[], markerByte ch, msbByte val, lsbByte val⟩ = .record ch val := by
  rw [Framed.record_eq, markerByte_eq_append, msbByte_eq_append, lsbByte_eq_append, extractLsb'_append_middle,
    extractLsb'_append_middle, extractLsb'_append_middle]
  exact congrArg (Output.record ch)
    ((BitVec.extractLsb'_append_extractLsb'_eq_extractLsb' rfl).trans BitVec.extractLsb'_eq_self)

/-- Settles O38: the encoder's marker has bit 7 = 1, and the fields of its bytes are the channel and the value. -/
theorem encodedFrameRoundTrip : Obligations.EncodedFrameRoundTrip := by
  intro s ch val hs
  have hm : (markerByte ch).getLsbD 7 = true := by
    rw [markerByte_eq_append, ← isMarker_eq_bit7, isMarker_append]
  rw [← record_encodeFrame ch val]
  exact runEvents_framed (f := ⟨[], markerByte ch, msbByte val, lsbByte val⟩) hs ⟨nofun, hm⟩

/-- A marker in a data byte's place ends its frame with one wrong record, its own data bytes are junk, and the frame
after them hands out its own record. -/
theorem runEvents_lostDataByte {s : State} {m1 r1 r2 m3 : Byte} (d m2 e1 e2 : Byte) (hs : s.atLaunch)
    (hm1 : m1.getLsbD 7 = true) (hr1 : r1.getLsbD 7 = false) (hr2 : r2.getLsbD 7 = false) (hm3 : m3.getLsbD 7 = true) :
    runEvents [.byte m1, .byte d, .byte m2, .take, .byte r1, .byte r2, .byte m3, .byte e1, .byte e2, .take] s =
      .next { s with sent := s.sent ++
        [.record (m1.extractLsb' 1 6) (d.extractLsb' 1 4 ++ m2.extractLsb' 1 6),
         .record (m3.extractLsb' 1 6) (e1.extractLsb' 1 4 ++ e2.extractLsb' 1 6)] } := by
  have hwrong : Framed.WellFormed ⟨[], m1, d, m2⟩ := ⟨nofun, hm1⟩
  have hright : Framed.WellFormed ⟨[r1, r2], m3, e1, e2⟩ := ⟨by simpa using ⟨hr1, hr2⟩, hm3⟩
  have hrun := runEvents_frames hs (List.forall_mem_cons.mpr ⟨hwrong, List.forall_mem_singleton.mpr hright⟩)
  rw [List.map_cons, List.map_cons, Framed.record_eq, Framed.record_eq] at hrun
  exact hrun

/-- Settles O42: program P3 is one case of the general run. -/
theorem lostDataByteGivesOneWrongRecord : Obligations.LostDataByteGivesOneWrongRecord :=
  ⟨fun _ _ d m2 _ _ _ e1 e2 hs hm1 _ hr1 hr2 hm3 => runEvents_lostDataByte d m2 e1 e2 hs hm1 hr1 hr2 hm3,
    fun _ hs => runEvents_lostDataByte _ _ _ _ hs rfl rfl rfl rfl⟩

/-- Settles O43: two bytes of junk, or a frame that starts at the data byte. -/
theorem lostMarkerLosesItsFrame : Obligations.LostMarkerLosesItsFrame := by
  refine ⟨fun s d1 d2 hst hd1 hd2 => ?_, fun s d1 e1 e2 hs hd1 => runEvents_framed_fields ⟨[], d1, e1, e2⟩ hs nofun hd1⟩
  exact runEvents_junk (junk := [d1, d2]) hst (by simpa using ⟨hd1, hd2⟩)

/-- Settles O44: the state after a frame holds its fields and nothing else of its bytes. -/
theorem onlyFieldBitsReachTheRecord : Obligations.OnlyFieldBitsReachTheRecord := by
  intro s m m' d d' l l' hst hm hm'
  refine ⟨_, _, runEvents_frame d l hst hm, runEvents_frame d' l' hst hm', ?_⟩
  simp only [State.mk.injEq, valueOf_dataBytes, channelOf_eq_extractLsb', Option.some.injEq, true_and, and_true]
  exact and_congr_right' append_eq_append_iff

end Sys2Proof.Machine

/-! PROOF. Around the block: the lines and texts of test programs (30_encoding.md R59, R60), and the host's bare table
words (log entries 9 and 10). -/

namespace Sys2Proof.Machine

/-! ## Lines and texts -/

/-- An accepted line expands to its events. -/
theorem expand_of_ok {l : Line} (h : l.ok = true) : l.expand = some l.events := if_pos h

/-- A refused line does not expand. -/
theorem expand_of_not_ok {l : Line} (h : ¬ l.ok = true) : l.expand = none := if_neg h

/-- FRAME is accepted exactly up to the largest channel and value. -/
theorem frame_ok_iff {ch val : Nat} : (Line.frame ch val).ok = true ↔ ch ≤ 63 ∧ val ≤ 1023 := by
  simp [Line.ok]

/-- Settles O58: BYTES of at least one byte is accepted, and FRAME where both operands are in range. -/
theorem pseudoInstructionsExpand : Obligations.PseudoInstructionsExpand := by
  refine ⟨fun b bs => expand_of_ok rfl, fun ch val hch hval => expand_of_ok (frame_ok_iff.mpr ⟨hch, hval⟩),
    fun ch val hout => expand_of_not_ok fun hok => ?_⟩
  obtain ⟨hch, hval⟩ := frame_ok_iff.mp hok
  omega

/-- Settles O59: the assembler run on the five texts. -/
theorem programTextAssembles : Obligations.ProgramTextAssembles := by
  refine ⟨?_, ?_, ?_, ?_, ?_⟩ <;> decide

/-! ## The host's words -/

/-- Every event is enabled in the state its bare word is read in. -/
theorem exists_select_tableCtrl (e : Event) : ∃ i, select (tableCtrl e) e = some i := by
  cases e with
  | byte b => exact ⟨_, rfl⟩
  | eos => exact ⟨_, rfl⟩
  | take => exact ⟨_, rfl⟩
  | reset => exact ⟨_, rfl⟩

/-- An operation the table decoder reads is the one an event's word selects. -/
theorem decodeTableWord_some {nbits w : Nat} {i : Instr} (h : decodeTableWord nbits w = some i) :
    ∃ e : Event, wordOfBits nbits w = some e.toWord ∧ select (tableCtrl e) e = some i := by
  unfold decodeTableWord at h
  cases hw : wordOfBits nbits w with
  | none => rw [hw] at h; cases h
  | some ew =>
    rw [hw] at h
    obtain ⟨e, rfl⟩ | ⟨hk, hd⟩ := eq_toWord_or_refused ew
    · simp only [ofWord_toWord] at h
      exact ⟨e, rfl, h⟩
    · simp only [ofWord_of_data_ne_zero hk hd] at h
      cases h

/-- The table decoder reads nothing from a number that is no event word, stored as one that encodes no event, and from
a word that encodes no event. -/
theorem decodeTableWord_none {nbits w : Nat} (h : decodeTableWord nbits w = none) :
    kindOf ((wordOfBits nbits w).getD refusedWord) ≠ 0b00#2 ∧
    dataOf ((wordOfBits nbits w).getD refusedWord) ≠ 0x00#8 := by
  unfold decodeTableWord at h
  cases hw : wordOfBits nbits w with
  | none => exact ⟨by decide, by decide⟩
  | some ew =>
    rw [hw] at h
    obtain ⟨e, rfl⟩ | hrefused := eq_toWord_or_refused ew
    · obtain ⟨i, hi⟩ := exists_select_tableCtrl e
      simp only [ofWord_toWord] at h
      cases hi.symm.trans h
    · exact hrefused

/-- Where an operation stands, the host's seat is the state itself. -/
theorem seatFor_of_standsIn {i : Instr} {s : State} (h : i.standsIn s.st = true) : seatFor i s = s := if_pos h

/-- The host seats every operation where it stands. -/
theorem standsIn_seatFor (i : Instr) (s : State) : i.standsIn (seatFor i s).st = true := by
  by_cases h : i.standsIn s.st = true
  · rw [seatFor_of_standsIn h, h]
  · unfold seatFor
    rw [if_neg h]
    cases i <;> rfl

/-- Settles O60: the stored word is the event's, and the event selects the operation on its seat; a word the table
decoder reads nothing from encodes no event. -/
theorem fetchWordRunsTableOperation : Obligations.FetchWordRunsTableOperation := by
  refine ⟨fun s nbits w i h => ⟨?_, seatFor_of_standsIn⟩, fun s nbits w h => ?_⟩
  · obtain ⟨e, hw, hsel⟩ := decodeTableWord_some h
    obtain ⟨rfl, hwf, -⟩ := row_of_select hsel
    have hdec := decode_toWord (select_of_row hwf (standsIn_seatFor i s))
    simp only [State.withFetchWord, h, hw, Option.getD_some]
    exact step_of_decode hdec s.pending
  · obtain ⟨hk, hd⟩ := decodeTableWord_none h
    exact ⟨_, step_of_error rfl (decode_of_data_ne_zero hk hd _)⟩

end Sys2Proof.Machine
